-- ==== Sys2Proof/Word.lean ====
section
/-! DEFINITION. The two word types of the block (00_scope.md rule R8): a stream byte and a 32-bit register. -/

namespace Sys2Proof

/-- One byte of a stream port or of the carrier window (R8, R11). -/
abbrev Byte := BitVec 8

/-- One 32-bit register, command word or frame field (R8, R13: unsigned). -/
abbrev Word := BitVec 32

end Sys2Proof
end

