-- ==== Sys2Proof/Syntax.lean ====
section
/-! DEFINITION. The commands of the block (30_encoding.md rules R100 to R103), one constructor per row of the opcode
table, and the one command format. -/

namespace Sys2Proof

/-- The eight commands (R103). Commands carry no operand field (R102). -/
inductive Instr where
  | nop
  | encb
  | decb
  | encw
  | decw
  | capchk
  | encode
  | decode
  deriving DecidableEq, Repr

/-- The fields of the one format `CMD32` (R100): `OP` is bits 7:0 and `RSV` bits 31:8. -/
structure CmdFields where
  op : BitVec 8
  rsv : BitVec 24
  deriving DecidableEq, Repr

end Sys2Proof
end

