-- ==== Sys2Proof/WellFormed.lean ====
section
/-! DEFINITION. Which command words are well formed (30_encoding.md rules R100, R103, R105). A command has no operand, so
every constructor of `Instr` is well formed; the two checks are on the fields of the word. -/

namespace Sys2Proof

/-- The defined `OP` values (R103). -/
def definedOps : List (BitVec 8) := [0x00, 0x01, 0x02, 0x03, 0x04, 0x05, 0x10, 0x11]

/-- `RSV` must be 0 (R100). -/
def CmdFields.rsvZero (f : CmdFields) : Bool := f.rsv == 0

/-- `OP` is one of the eight values of R103. -/
def CmdFields.opDefined (f : CmdFields) : Bool := definedOps.contains f.op

/-- A word that R104 does not call `Illegal`. -/
def CmdFields.wf (f : CmdFields) : Bool := f.rsvZero && f.opDefined

/-- A command as syntax has nothing that could be ill formed (R102). -/
def Instr.wf : Instr → Bool
  | .nop | .encb | .decb | .encw | .decw | .capchk | .encode | .decode => true

end Sys2Proof
end

