-- ==== Sys2Proof/Decode.lean ====
section
/-! DEFINITION. Decoding and encoding of command words (30_encoding.md rules R100, R103, R104, R105). -/

namespace Sys2Proof

/-- Why R104 yields `Illegal`. -/
inductive Illegal where
  /-- `RSV` is not 0, whatever `OP` is. -/
  | reservedBits
  /-- `RSV` is 0 and `OP` is none of the eight defined values. -/
  | undefinedOp
  deriving DecidableEq, Repr

/-- The result of R104 on a word. -/
inductive Decoded where
  | command (i : Instr)
  | illegal (why : Illegal)
  deriving DecidableEq, Repr

/-- The two fields of a command word (R100). -/
def cmdFields (w : Word) : CmdFields := { op := w.extractLsb' 0 8, rsv := w.extractLsb' 8 24 }

/-- The command of an `OP` value, in the order of R104. -/
def decodeOp (op : BitVec 8) : Decoded :=
  if op = 0x00 then .command .nop
  else if op = 0x01 then .command .encb
  else if op = 0x02 then .command .decb
  else if op = 0x03 then .command .encw
  else if op = 0x04 then .command .decw
  else if op = 0x05 then .command .capchk
  else if op = 0x10 then .command .encode
  else if op = 0x11 then .command .decode
  else .illegal .undefinedOp

/-- R104, total on every 32-bit word. -/
def decodeCmd (w : Word) : Decoded :=
  if (cmdFields w).rsv ≠ 0 then .illegal .reservedBits else decodeOp (cmdFields w).op

/-- The host's numbering of a table word: bit 0 is the least significant bit of the one 32-bit word of a command (R101),
and the bits above `nbits` are 0. No command is longer than one word. -/
def decodeTableWord (nbits w : Nat) : Option Instr :=
  if nbits ≤ 32 then
    match decodeCmd (BitVec.ofNat 32 (w % 2 ^ nbits)) with
    | .command i => some i
    | .illegal _ => none
  else none

/-- The `OP` value of a command (R103). -/
def opcode : Instr → BitVec 8
  | .nop => 0x00
  | .encb => 0x01
  | .decb => 0x02
  | .encw => 0x03
  | .decw => 0x04
  | .capchk => 0x05
  | .encode => 0x10
  | .decode => 0x11

/-- The command word of a command: `RSV` = 0 above `OP` (R100, R103). -/
def encode (i : Instr) : Word := 0#24 ++ opcode i

end Sys2Proof
end

