-- ==== Sys2Proof/Config.lean ====
section
/-! DEFINITION. The build parameters of the block (00_scope.md rule R6). They are fixed when a block is built, so a
state carries one `Params` that no step changes, and every claim over all states holds for every legal parameter. -/

namespace Sys2Proof

/-- The build parameters (R6). The legal ranges 0..4 of `MARKER_LEN` and `EXT_MAX` are the types. -/
structure Params where
  /-- `MARKER_LEN`, the number of marker bytes, 0..4. -/
  markerLen : Fin 5
  /-- `MARKER`: byte `k` is bits `8k+7:8k`; only bytes below `MARKER_LEN` are parameter bytes. -/
  marker : Word
  /-- `EXT_MAX`, the largest extension length in characters, 0..4. -/
  extMax : Fin 5
  /-- `PAYLOAD_MAX`, the largest payload length in bytes. -/
  payloadMax : Word
  deriving DecidableEq, Repr

/-- The default column of R6. The marker bytes 23 2A are PRESUMED (the spec takes them from general knowledge, K1);
unsafe for a claim that rests on them: notes/assumptions/2.md. -/
def Params.default : Params :=
  { markerLen := 2, marker := 0x00002A23, extMax := 4, payloadMax := 0xFFFFFFFF }

end Sys2Proof
end

