-- ==== Sys2Proof/Machine/State.lean ====
section
/-! DEFINITION. The state of the block (10_state.md rule R20): the register file of R21, the hidden session state of R52
with the pending stream transaction of R53, the four stream ports of 20_memory.md rule R76, and the host's side of the
interleaving of R90. The block has no memory (20_memory.md). -/

namespace Sys2Proof.Machine

/-- `STATUS.ERR`, the error kinds of 60_exceptions.md rule R241; codes 6..15 are never produced. -/
inductive ErrKind where
  | none
  | formatError
  | capacityError
  | ioError
  | argumentError
  | commandError
  deriving DecidableEq, Repr

/-- `STATUS.STATE`, the last session phase completed (R30); codes 9..15 are never produced. The names serve both modes:
`headerDone` is HEADER_COPIED of ENCODE and HEADER_SKIPPED of DECODE, and so on. -/
inductive Phase where
  | idle
  | headerDone
  | markerDone
  | extLenDone
  | extDone
  | payloadLenDone
  | payloadDone
  | tailCopied
  | done
  deriving DecidableEq, Repr

/-- The fields of `STATUS` (R27); its reserved bits are no state (R23). -/
structure Status where
  /-- `BUSY`, bit 0 (R27). -/
  busy : Bool
  /-- `DONE`, bit 1 (R28). -/
  done : Bool
  /-- `CAP_OK`, bit 2 (R32). -/
  capOk : Bool
  /-- `WIGN`, bit 3 (R33). -/
  wign : Bool
  /-- `MMATCH`, bit 4 (R34). -/
  mmatch : Bool
  /-- `ERR`, bits 11:8 (R29). -/
  err : ErrKind
  /-- `STATE`, bits 15:12 (R30). -/
  phase : Phase
  /-- `MODE`, bit 16 (R31): true for DECODE. -/
  mode : Bool
  deriving DecidableEq, Repr

/-- `kind` of the hidden session state (R52). -/
inductive Kind where
  | none
  | encode
  | decode
  deriving DecidableEq, Repr

/-- The five frame fields in frame order (00_scope.md rule R15), with the byte index inside a field of several groups. -/
inductive Field where
  | marker (k : Nat)
  | extLen
  | ext (k : Nat)
  | payloadLen
  | payload (k : Nat)
  deriving DecidableEq, Repr

/-- `cont` of the hidden session state (R52): the point the session pseudocode has reached. Each point but `idle` waits
for the answer to one stream transaction, the pending one of R53, which `State.pending` reads from it. -/
inductive Cont where
  /-- No session runs, and no transaction is pending. -/
  | idle
  /-- `CinRead` for header byte `k` (43_frame_encode.md rules R182, R183). -/
  | header (k : Fin 54)
  /-- `CoutWrite(HDR[k])` of the header copy (R185). -/
  | headerOut (k : Fin 54)
  /-- `SinRead` for payload byte `k` (R191). -/
  | payloadIn (k : Nat)
  /-- `CinRead` for byte `k` of the carrier group of a field (R186). -/
  | fill (f : Field) (k : Fin 32)
  /-- `CoutWrite` of byte `k` of the encoded group of a field (R186). -/
  | emit (f : Field) (k : Fin 32)
  /-- `CinRead` in the tail (R192). -/
  | tail
  /-- `CoutWrite(b)` of a tail byte (R192). -/
  | tailOut (b : Byte)
  /-- `PoutWrite(b)` of payload byte `k` (44_frame_decode.md rule R220). -/
  | deliver (k : Nat) (b : Byte)
  deriving DecidableEq, Repr

/-- The hidden session state (R52): `kind`, `cont`, `HDR`, `g`, `MCHK_L`, and the local variables of the session
pseudocode that `cont` is to hold. -/
structure Session where
  kind : Kind
  cont : Cont
  /-- `HDR[0..53]`, the header bytes read from CIN. -/
  hdr : Vector Byte 54
  /-- `g[0..31]`, the carrier group being filled or emitted. -/
  group : Vector Byte 32
  /-- `MCHK_L`, `CTRL.MCHK` as DECODE latched it. -/
  mchkL : Bool
  /-- The local `EL` (R181, R216). -/
  el : Word
  /-- The local `E` of ENCODE (R181). -/
  ext : Word
  /-- The local `PL` (R181, R219). -/
  pl : Word
  /-- The local `b` of R191: the payload byte taken from SIN and not yet embedded. -/
  sinByte : Byte
  deriving DecidableEq, Repr

/-- No session: `kind` = NONE and no pending transaction (R270). The other items hold no value a later command reads
(R52); the model holds them at zero, a DESIGN CHOICE, safe: notes/assumptions/6.md. -/
def Session.idle : Session :=
  { kind := .none, cont := .idle, hdr := Vector.replicate 54 0, group := Vector.replicate 32 0, mchkL := false,
    el := 0, ext := 0, pl := 0, sinByte := 0 }

/-- The host's answer to a `CinRead` or `SinRead` (20_memory.md rule R78). -/
inductive ReadResult where
  | byte (b : Byte)
  /-- `End`: the stream has no more bytes. -/
  | endOfStream
  | err
  deriving DecidableEq, Repr

/-- The host's answer to a `CoutWrite` or `PoutWrite` (R78). -/
inductive WriteResult where
  | ok
  | err
  deriving DecidableEq, Repr

/-- A stream transaction the engine has issued (R53, R78). -/
inductive Transaction where
  | cinRead
  | sinRead
  | coutWrite (b : Byte)
  | poutWrite (b : Byte)
  deriving DecidableEq, Repr

/-- The block's answer to a bus transaction (20_memory.md rule R71). -/
inductive BusAnswer where
  | data (v : Word)
  | ok
  | busError
  deriving DecidableEq, Repr

/-- One move of the host (R90 a and b, and the reset input of 70_reset_and_hazards.md rule R270). A bus transaction
carries its byte-lane enables because R72 answers a partial one `BusError`. -/
inductive HostEvent where
  | regRead (off : BitVec 8) (lanes : BitVec 4)
  | regWrite (off : BitVec 8) (lanes : BitVec 4) (v : Word)
  | readAnswer (r : ReadResult)
  | writeAnswer (w : WriteResult)
  | rstAssert
  | rstRelease
  deriving DecidableEq, Repr

/-- The state of the block and of its two sides (R20). -/
structure State where
  /-- The build parameters (00_scope.md rule R6), which no step changes: notes/assumptions/1.md. -/
  params : Params
  /-- `CTRL.IE` (R25). -/
  ie : Bool
  /-- `CTRL.MCHK` (R25). -/
  mchk : Bool
  /-- `CMD` (R26). -/
  cmd : Word
  /-- `STATUS` (R27). -/
  status : Status
  /-- `VALUE` (R36). -/
  value : Word
  /-- `WIDTH` (R37). -/
  width : Word
  /-- `HEIGHT` (R37). -/
  height : Word
  /-- `EXT_LEN` (R38). -/
  extLen : Word
  /-- `EXT` (R39). -/
  ext : Word
  /-- `PAYLOAD_LEN` (R41). -/
  payloadLen : Word
  /-- `CAP`, below 2^66, seen as `CAP_LO`, `CAP_MID` and `CAP_HI` (R42). -/
  cap : BitVec 66
  /-- `REQ`, below 2^37, seen as `REQ_LO` and `REQ_HI` (R43). -/
  req : BitVec 37
  /-- `CIN_POS`, seen as `CIN_POS_LO` and `CIN_POS_HI` (R48). -/
  cinPos : BitVec 64
  /-- `OUT_POS`, seen as `OUT_POS_LO` and `OUT_POS_HI` (R49). -/
  outPos : BitVec 64
  /-- `SIN_POS` (R50). -/
  sinPos : Word
  /-- `DMARKER` (R45). -/
  dmarker : Word
  /-- The carrier window `CW[0..31]`, seen as `CWIN0..CWIN7` (R40). -/
  cw : Vector Byte 32
  /-- The hidden session state (R52), the pending transaction of R53 in its `cont`. -/
  session : Session
  /-- The bytes received on CIN in the current or last session, in order (20_memory.md rules R76, R77). -/
  cin : List Byte
  /-- The bytes received on SIN in the current or last session, in order. -/
  sin : List Byte
  /-- The bytes delivered on COUT in the current or last session, in order (00_scope.md rule R10). -/
  cout : List Byte
  /-- The bytes delivered on POUT in the current or last session, in order (R10). -/
  pout : List Byte
  /-- The reset input `rst` is asserted (70_reset_and_hazards.md rule R270). -/
  rst : Bool
  /-- The block's answer to the host's last bus transaction (R71), none before the first one or when it got no answer. -/
  bus : Option BusAnswer
  /-- The moves the host will make, the next one first: any interleaving of R90 is such a list. -/
  host : List HostEvent
  deriving DecidableEq, Repr

/-- `STATUS` after reset (R270). -/
def Status.reset : Status :=
  { busy := false, done := false, capOk := false, wign := false, mmatch := false, err := .none, phase := .idle,
    mode := false }

/-- The block right after `rst` is released (R21, R270), built with the default parameters, with nothing yet done by the
host. -/
def State.reset : State :=
  { params := Params.default, ie := false, mchk := true, cmd := 0, status := Status.reset, value := 0, width := 0,
    height := 0, extLen := 0, ext := 0, payloadLen := 0, cap := 0, req := 0, cinPos := 0, outPos := 0, sinPos := 0,
    dmarker := 0, cw := Vector.replicate 32 0, session := Session.idle, cin := [], sin := [], cout := [], pout := [],
    rst := false, bus := none, host := [] }

/-- Why the machine stops. No rule of the spec stops the block (60_exceptions.md rules R240, R259). -/
inductive Fault where
  /-- Raised by `answerRead` and `answerWrite` (Machine/Engine.lean) when the host's next move answers a stream
  transaction that is not pending, or answers a read as a write or a write as a read. The spec gives the host no such
  move (R78, R90) and so no effect of one. Safe: notes/assumptions/5.md. -/
  | unsolicitedAnswer
  deriving DecidableEq, Repr

/-- Why an instruction has no meaning. -/
inductive Refusal where
  /-- For an arm of `exec` without a meaning, by the table's mnemonic; no arm raises it. Safe. -/
  | notModelled (mnemonic : String)
  deriving DecidableEq, Repr

end Sys2Proof.Machine
end

