-- ==== Sys2Proof/Machine/Operands.lean ====
section
/-! DEFINITION. The operand forms: byte lanes of a register (20_memory.md rule R73), carrier groups and the four
bit-packer functions (41_bitpacker.md rules R140 to R143), the carrier window as registers (10_state.md rule R40), the
header fields (20_memory.md rule R74), and the frame fields' sizes (R82). -/

namespace Sys2Proof.Machine

/-- Byte lane `k` of a register, bits `8k+7:8k` (R73). -/
def byteOf (w : Word) (k : Nat) : Byte := w.extractLsb' (8 * k) 8

/-- The register whose byte lanes 0..3 are given (R73). -/
def ofBytes (b0 b1 b2 b3 : Byte) : Word := b3 ++ b2 ++ b1 ++ b0

/-- A register with byte lane `k` replaced (R73); a register has lanes 0..3 only. -/
def setByte (w : Word) (k : Nat) (b : Byte) : Word :=
  ofBytes (if k = 0 then b else byteOf w 0) (if k = 1 then b else byteOf w 1)
    (if k = 2 then b else byteOf w 2) (if k = 3 then b else byteOf w 3)

/-- The `MARKER` register (R44): bytes from `MARKER_LEN` on read 0. -/
def markerWord (p : Params) : Word :=
  ofBytes (if 0 < p.markerLen.val then byteOf p.marker 0 else 0) (if 1 < p.markerLen.val then byteOf p.marker 1 else 0)
    (if 2 < p.markerLen.val then byteOf p.marker 2 else 0) (if 3 < p.markerLen.val then byteOf p.marker 3 else 0)

/-- The `PARAM` register (R46). -/
def paramWord (p : Params) : Word := 0#16 ++ BitVec.ofNat 8 p.extMax.val ++ BitVec.ofNat 8 p.markerLen.val

/-- The `ID` register (R24). -/
def idWord : Word := 0x4C534201

/-- `{b[7:1], v}`: bit 0 replaced, bits 7:1 kept (R140). -/
def setLsb (b : Byte) (v : Bool) : Byte := b.extractLsb' 1 7 ++ BitVec.ofBool v

/-- The hidden bit of a carrier byte, bit 0 (R141). -/
def lsb (b : Byte) : Bool := b.getLsbD 0

/-- A value packed into a group of as many carrier bytes, most-significant bit first: carrier byte `k` holds bit `n-1-k`
(R144). -/
def encodeBits {n : Nat} (v : BitVec n) (c : Vector Byte n) : Vector Byte n :=
  Vector.ofFn fun k => setLsb (c.get k) (v.getMsbD k.val)

/-- The value whose bit `n-1-k` is bit 0 of carrier byte `k` (R144). -/
def decodeBits {n : Nat} (c : Vector Byte n) : BitVec n :=
  (BitVec.ofBoolListBE (c.toList.map lsb)).cast (by simp)

/-- `encode_byte` (R140). -/
def encodeByte (v : Byte) (c : Vector Byte 8) : Vector Byte 8 := encodeBits v c

/-- `decode_byte` (R141). -/
def decodeByte (c : Vector Byte 8) : Byte := decodeBits c

/-- `encode_int32` (R142). -/
def encodeInt32 (w : Word) (c : Vector Byte 32) : Vector Byte 32 := encodeBits w c

/-- `decode_int32` (R143). -/
def decodeInt32 (c : Vector Byte 32) : Word := decodeBits c

/-- Bytes 0..7 of a 32-byte array, the group of a byte field. -/
def first8 (c : Vector Byte 32) : Vector Byte 8 := Vector.ofFn fun k => c.get (k.castLE (by omega))

/-- A 32-byte array with bytes 0..7 replaced. -/
def putFirst8 (c : Vector Byte 32) (d : Vector Byte 8) : Vector Byte 32 :=
  Vector.ofFn fun k => if h : k.val < 8 then d.get ⟨k.val, h⟩ else c.get k

/-- `CWINj` as the host reads it: its byte lane `i` is `CW[4j+i]` (R40). -/
def cwinRead (c : Vector Byte 32) (j : Fin 8) : Word :=
  ofBytes (c.get ⟨4 * j.val, by omega⟩) (c.get ⟨4 * j.val + 1, by omega⟩) (c.get ⟨4 * j.val + 2, by omega⟩)
    (c.get ⟨4 * j.val + 3, by omega⟩)

/-- The window after a write of `CWINj` (R40). -/
def cwinWrite (c : Vector Byte 32) (j : Fin 8) (v : Word) : Vector Byte 32 :=
  Vector.ofFn fun k => if k.val / 4 = j.val then byteOf v (k.val % 4) else c.get k

/-- The signature bytes "BM" at carrier offsets 0 and 1 (00_scope.md rule R7). -/
def signatureOk (hdr : Vector Byte 54) : Bool := hdr.get 0 == 0x42 && hdr.get 1 == 0x4D

/-- The width, little-endian at offset 18 (R74). -/
def headerWidth (hdr : Vector Byte 54) : Word := ofBytes (hdr.get 18) (hdr.get 19) (hdr.get 20) (hdr.get 21)

/-- The height, little-endian at offset 22 (R74). -/
def headerHeight (hdr : Vector Byte 54) : Word := ofBytes (hdr.get 22) (hdr.get 23) (hdr.get 24) (hdr.get 25)

/-- The carrier bytes of one group of a frame field: 32 for a 32-bit field, 8 for a frame byte (R7, R82). -/
def groupSize : Field → Nat
  | .extLen | .payloadLen => 32
  | .marker _ | .ext _ | .payload _ => 8

/-- No group is longer than `g` (R52). -/
theorem groupSize_le (f : Field) : groupSize f ≤ 32 := by cases f <;> simp [groupSize]

/-- The encoded group of a field of the running ENCODE, as R187 to R191 say what each field's value is. -/
def encodedGroup (p : Params) (x : Session) : Field → Vector Byte 32
  | .marker k => putFirst8 x.group (encodeByte (byteOf p.marker k) (first8 x.group))
  | .extLen => encodeInt32 x.el x.group
  | .ext k => putFirst8 x.group (encodeByte (byteOf x.ext k) (first8 x.group))
  | .payloadLen => encodeInt32 x.pl x.group
  | .payload _ => putFirst8 x.group (encodeByte x.sinByte (first8 x.group))

/-- The stream transaction a session waits for (R53): its port and, for a write, its byte. -/
def Session.pending (x : Session) : Option Transaction :=
  match x.kind with
  | .none => none
  | .encode =>
    match x.cont with
    | .header _ | .fill _ _ | .tail => some .cinRead
    | .payloadIn _ => some .sinRead
    | .headerOut k => some (.coutWrite (x.hdr.get k))
    | .emit _ k => some (.coutWrite (x.group.get k))
    | .tailOut b => some (.coutWrite b)
    | .idle | .deliver _ _ => none
  | .decode =>
    match x.cont with
    | .header _ | .fill _ _ => some .cinRead
    | .deliver _ b => some (.poutWrite b)
    | .idle | .headerOut _ | .payloadIn _ | .emit _ _ | .tail | .tailOut _ => none

/-- The pending stream transaction of the block (R20 c, R53). -/
def State.pending (s : State) : Option Transaction := s.session.pending

end Sys2Proof.Machine
end

