-- ==== Sys2Proof/Machine/Flags.lean ====
section
/-! DEFINITION. The status codes and the status word (10_state.md rules R27 to R35), `irq` (60_exceptions.md rule R250),
and the computations behind `CAP_OK` (42_capacity.md rules R160 to R162), `MMATCH` (44_frame_decode.md rule R215) and the
length bounds (R217). -/

namespace Sys2Proof.Machine

/-- The codes of `STATUS.ERR` (60_exceptions.md rule R241). -/
def ErrKind.code : ErrKind → BitVec 4
  | .none => 0
  | .formatError => 1
  | .capacityError => 2
  | .ioError => 3
  | .argumentError => 4
  | .commandError => 5

/-- The codes of `STATUS.STATE` (R30). -/
def Phase.code : Phase → BitVec 4
  | .idle => 0
  | .headerDone => 1
  | .markerDone => 2
  | .extLenDone => 3
  | .extDone => 4
  | .payloadLenDone => 5
  | .payloadDone => 6
  | .tailCopied => 7
  | .done => 8

/-- `STATUS` as the host reads it (R35). -/
def Status.word (t : Status) : Word :=
  0#15 ++ BitVec.ofBool t.mode ++ t.phase.code ++ t.err.code ++ 0#3 ++ BitVec.ofBool t.mmatch ++ BitVec.ofBool t.wign ++
    BitVec.ofBool t.capOk ++ BitVec.ofBool t.done ++ BitVec.ofBool t.busy

/-- `CTRL` as the host reads it: `DONE_CLR` and the reserved bits read 0 (R25). -/
def ctrlWord (ie mchk : Bool) : Word := 0#29 ++ BitVec.ofBool mchk ++ 0#1 ++ BitVec.ofBool ie

/-- The interrupt output (60_exceptions.md rule R250). -/
def State.irq (s : State) : Bool := s.ie && s.status.done

/-- `image_capacity_bytes`, exact (R160). -/
def imageCapacityBytes (width height : Word) : Nat := width.toNat * height.toNat * 3

/-- `required_bits`, exact, with three terms of 4 as the formula is written (R161, 90_conflicts.md C1). -/
def requiredBits (magicLen extLen payloadLen : Nat) : Nat := 8 * (4 + magicLen + 4 + extLen + 4 + payloadLen)

/-- `has_capacity`: false exactly when `cap < req` (R162, R163). -/
def hasCapacity (cap req : Nat) : Bool := !decide (cap < req)

/-- `remaining()`, an exact signed integer (R217). -/
def remaining (cap cinPos : Nat) : Int := (cap : Int) - ((cinPos : Int) - 54)

/-- The marker comparison (R215): every one of the `MARKER_LEN` decoded bytes equals its parameter byte. -/
def markerMatches (p : Params) (dmarker : Word) : Bool :=
  (List.range p.markerLen.val).all fun k => byteOf dmarker k == byteOf p.marker k

/-- A decoded length within its declared maximum and the remaining capacity (R217, R219). -/
def lengthOk (len max : Nat) (rem : Int) : Bool := decide (len ≤ max) && decide (8 * (len : Int) ≤ rem)

end Sys2Proof.Machine
end

