-- ==== Sys2Proof/Machine/Ops.lean ====
section
/-! DEFINITION. The named operations on the state: acceptance and completion of a command (40_command.md rules R121,
R122), raising an error (60_exceptions.md rule R243, the exception entry of this block; R247: there is no return from
one), the start of a session, the effects of a stream answer (20_memory.md rule R78), and reset (R270). -/

namespace Sys2Proof.Machine

/-- The status clears of acceptance, common to every command word (R121). -/
def accept (isDecode : Bool) (s : State) : State :=
  { s with
    status :=
      { s.status with
        done := false, err := .none, wign := false, capOk := false, mmatch := false, phase := .idle,
        mode := isDecode } }

/-- Completion of a command (R122): the session context is discarded and `STATE` is not changed. -/
def complete (e : ErrKind) (s : State) : State :=
  { s with status := { s.status with err := e, busy := false, done := true }, session := Session.idle }

/-- `raise E` (60_exceptions.md rule R243): `complete(E)` at once, everything done before it stands. -/
def raise (e : ErrKind) (s : State) : State := complete e s

/-- The clears that ENCODE and DECODE share at acceptance (43_frame_encode.md rule R181, 44_frame_decode.md rule R210):
`CAP`, `REQ` and the counters, with the ports' records back at position 0 (20_memory.md rule R77). -/
def clearCounters (s : State) : State :=
  { s with cap := 0, req := 0, cinPos := 0, outPos := 0, sinPos := 0, cin := [], sin := [], cout := [], pout := [] }

/-- A session becomes the running one (`BUSY` <- 1, R181, R210). -/
def startSession (x : Session) (s : State) : State :=
  { s with status := { s.status with busy := true }, session := x }

/-- The session pseudocode goes on to wait at `c`: it issues the transaction of `c` (R53). -/
def await (c : Cont) (s : State) : State := { s with session := { s.session with cont := c } }

/-- A session rule advances `STATE` (R30). -/
def setPhase (p : Phase) (s : State) : State := { s with status := { s.status with phase := p } }

/-- `Byte(b)` on CIN: the read position and `CIN_POS` advance by one, modulo 2^64 (R78, R48). -/
def cinReceived (b : Byte) (s : State) : State := { s with cinPos := s.cinPos + 1, cin := s.cin ++ [b] }

/-- `Byte(b)` on SIN: the read position and `SIN_POS` advance by one (R78, R50, R191). -/
def sinReceived (b : Byte) (s : State) : State := { s with sinPos := s.sinPos + 1, sin := s.sin ++ [b] }

/-- `Ok` on COUT: the write position and `OUT_POS` advance by one (R78, R49). -/
def coutDelivered (b : Byte) (s : State) : State := { s with outPos := s.outPos + 1, cout := s.cout ++ [b] }

/-- `Ok` on POUT: the write position and `OUT_POS` advance by one (R78, R49). -/
def poutDelivered (b : Byte) (s : State) : State := { s with outPos := s.outPos + 1, pout := s.pout ++ [b] }

/-- `HDR[k] <- b` (R182, R183). -/
def storeHeader (k : Fin 54) (b : Byte) (s : State) : State :=
  { s with session := { s.session with hdr := s.session.hdr.set k.val b } }

/-- `g[k] <- b` (R186). -/
def storeGroup (k : Fin 32) (b : Byte) (s : State) : State :=
  { s with session := { s.session with group := s.session.group.set k.val b } }

/-- `WIDTH` and `HEIGHT` from the header (R183, R211). -/
def loadDimensions (s : State) : State :=
  { s with width := headerWidth s.session.hdr, height := headerHeight s.session.hdr }

/-- `CAP` <- `image_capacity_bytes(r[WIDTH], r[HEIGHT])` (R166, R184, R212). -/
def loadCapacity (s : State) : State := { s with cap := BitVec.ofNat 66 (imageCapacityBytes s.width s.height) }

/-- `REQ` <- `required_bits(MARKER_LEN, el, pl)` (R166, R184). -/
def loadRequired (el pl : Word) (s : State) : State :=
  { s with req := BitVec.ofNat 37 (requiredBits s.params.markerLen.val el.toNat pl.toNat) }

/-- The capacity check passes (R166, R184). -/
def setCapOk (s : State) : State := { s with status := { s.status with capOk := true } }

/-- A host write ignored because `BUSY` = 1 (R33). -/
def setWign (s : State) : State := { s with status := { s.status with wign := true } }

/-- The block's answer to a bus transaction (20_memory.md rule R71). -/
def answerBus (a : BusAnswer) (s : State) : State := { s with bus := some a }

/-- Assertion of `rst` (R270, R271): everything is at its reset value, a session is abandoned with its pending transaction
withdrawn; the parameters and the host stay. -/
def assertReset (s : State) : State := { State.reset with params := s.params, host := s.host, rst := true }

/-- Release of `rst` (R270). -/
def releaseReset (s : State) : State := { s with rst := false }

end Sys2Proof.Machine
end

