-- ==== Sys2Proof/Machine/BitPacker.lean ====
section
/-! DEFINITION. The bit-packer commands on the carrier window (41_bitpacker.md rules R147 to R150). -/

namespace Sys2Proof.Machine

/-- ENCB (R147): `VALUE[7:0]` into `CW[0..7]`. -/
def execEncb (s : State) : Host.Outcome State Fault Refusal :=
  .next (complete .none
    { accept false s with cw := putFirst8 s.cw (encodeByte (byteOf s.value 0) (first8 s.cw)) })

/-- DECB (R148): `VALUE` is the byte of `CW[0..7]`, zero-extended. -/
def execDecb (s : State) : Host.Outcome State Fault Refusal :=
  .next (complete .none { accept false s with value := (decodeByte (first8 s.cw)).setWidth 32 })

/-- ENCW (R149): `VALUE` into `CW[0..31]`. -/
def execEncw (s : State) : Host.Outcome State Fault Refusal :=
  .next (complete .none { accept false s with cw := encodeInt32 s.value s.cw })

/-- DECW (R150): `VALUE` is the word of `CW[0..31]`. -/
def execDecw (s : State) : Host.Outcome State Fault Refusal :=
  .next (complete .none { accept false s with value := decodeInt32 s.cw })

end Sys2Proof.Machine
end

