-- ==== Sys2Proof/Machine/Capacity.lean ====
section
/-! DEFINITION. The capacity check (42_capacity.md rule R166). -/

namespace Sys2Proof.Machine

/-- CAPCHK (R166): `CAP_*` and `REQ_*` are written on a pass and on a fail; no argument check is made. -/
def execCapchk (s : State) : Host.Outcome State Fault Refusal :=
  let t := loadRequired s.extLen s.payloadLen (loadCapacity (accept false s))
  if hasCapacity (imageCapacityBytes s.width s.height)
      (requiredBits s.params.markerLen.val s.extLen.toNat s.payloadLen.toNat)
  then .next (complete .none (setCapOk t))
  else .next (raise .capacityError t)

end Sys2Proof.Machine
end

