-- ==== Sys2Proof/Machine/Control.lean ====
section
/-! DEFINITION. NOP and the illegal command words (40_command.md rules R123, R124). -/

namespace Sys2Proof.Machine

/-- NOP (R123): acceptance, then completion without error. -/
def execNop (s : State) : Host.Outcome State Fault Refusal := .next (complete .none (accept false s))

/-- Any word `decode` maps to `Illegal` (R124): acceptance, then CommandError, with no other effect. -/
def illegalCommand (s : State) : State := complete .commandError (accept false s)

end Sys2Proof.Machine
end

