-- ==== Sys2Proof/Machine/Carrier.lean ====
section
/-! DEFINITION. The two carrier readers that ENCODE and DECODE share: `read_header` (43_frame_encode.md rules R182, R183)
and `read_group` (R186). Each is given what its session does once the last byte is there. -/

namespace Sys2Proof.Machine

/-- The answer to the `CinRead` of header byte `k` (R182, R183, R244): both signature bytes are read before they are
compared, and after byte 53 `WIDTH` and `HEIGHT` are written. -/
def readHeader (after : State → State) (k : Fin 54) (r : ReadResult) (s : State) : State :=
  match r with
  | .err => raise .ioError s
  | .endOfStream => raise (if k.val < 2 then .formatError else .ioError) s
  | .byte b =>
    let t := storeHeader k b (cinReceived b s)
    if k.val = 1 ∧ signatureOk t.session.hdr = false then raise .formatError t
    else if h : k.val + 1 < 54 then await (.header ⟨k.val + 1, h⟩) t
    else after (loadDimensions t)

/-- The answer to the `CinRead` of byte `k` of a field's carrier group (R186, R244). -/
def readGroup (after : Field → State → State) (f : Field) (k : Fin 32) (r : ReadResult) (s : State) : State :=
  match r with
  | .err | .endOfStream => raise .ioError s
  | .byte b =>
    let t := storeGroup k b (cinReceived b s)
    if h : k.val + 1 < groupSize f then await (.fill f ⟨k.val + 1, Nat.lt_of_lt_of_le h (groupSize_le f)⟩) t
    else after f t

/-- The session pseudocode starts to read the carrier group of a field (R186). -/
def startGroup (f : Field) (s : State) : State := await (.fill f 0) s

end Sys2Proof.Machine
end

