-- ==== Sys2Proof/Machine/FrameDecode.lean ====
section
/-! DEFINITION. DECODE (44_frame_decode.md rules R210 to R222): its acceptance, and the session program cut at its stream
transactions (20_memory.md rule R91 b). -/

namespace Sys2Proof.Machine

/-- DECODE (R210): the result registers, `CAP_*`, `REQ_*` and the counters are cleared, `MCHK` is latched, and the session
starts with the first header read (R211). It raises no ArgumentError. -/
def execDecode (s : State) : Host.Outcome State Fault Refusal :=
  .next (startSession { Session.idle with kind := .decode, cont := .header 0, mchkL := s.mchk }
    { clearCounters (accept true s) with extLen := 0, ext := 0, payloadLen := 0, dmarker := 0 })

/-- Completion (R221). -/
def decodeFinish (s : State) : State := complete .none (setPhase .done s)

/-- The carrier group of payload byte `k` (R220), or the end of the phase and of the session (R221). -/
def decodePayload (k : Nat) (s : State) : State :=
  if k < s.session.pl.toNat then startGroup (.payload k) s else decodeFinish (setPhase .payloadDone s)

/-- Extension character `k` (R218), or the end of the phase and the payload-length field (R219). -/
def decodeExt (k : Nat) (s : State) : State :=
  if k < s.session.el.toNat then startGroup (.ext k) s else startGroup .payloadLen (setPhase .extDone s)

/-- The marker check (R215), then the extension-length field (R216). -/
def decodeMarkerCheck (s : State) : State :=
  let m := markerMatches s.params s.dmarker
  let t := { s with status := { s.status with mmatch := m } }
  if s.session.mchkL = true ∧ m = false then raise .formatError t
  else startGroup .extLen (setPhase .markerDone t)

/-- Marker byte `k` (R214), or the check after the last one (R215). -/
def decodeMarker (k : Nat) (s : State) : State :=
  if k < s.params.markerLen.val then startGroup (.marker k) s else decodeMarkerCheck s

/-- The capacity for the bounds, in the step of the last header byte (R212); no capacity check is made. -/
def decodeHeaderDone (s : State) : State := decodeMarker 0 (setPhase .headerDone (loadCapacity s))

/-- The extension length (R216, R217): written before its bounds are checked. -/
def decodeExtLen (s : State) : State :=
  let n := decodeInt32 s.session.group
  let t := { s with extLen := n, session := { s.session with el := n } }
  if lengthOk n.toNat s.params.extMax.val (remaining s.cap.toNat s.cinPos.toNat)
  then decodeExt 0 (setPhase .extLenDone t)
  else raise .formatError t

/-- The payload length (R219): written before its bounds are checked. -/
def decodePayloadLen (s : State) : State :=
  let n := decodeInt32 s.session.group
  let t := { s with payloadLen := n, session := { s.session with pl := n } }
  if lengthOk n.toNat s.params.payloadMax.toNat (remaining s.cap.toNat s.cinPos.toNat)
  then decodePayload 0 (setPhase .payloadLenDone t)
  else raise .formatError t

/-- What a full group does (R213 to R220); a payload byte is written on POUT at once. -/
def decodeGroup (f : Field) (s : State) : State :=
  match f with
  | .marker k => decodeMarker (k + 1) { s with dmarker := setByte s.dmarker k (decodeByte (first8 s.session.group)) }
  | .extLen => decodeExtLen s
  | .ext k => decodeExt (k + 1) { s with ext := setByte s.ext k (decodeByte (first8 s.session.group)) }
  | .payloadLen => decodePayloadLen s
  | .payload k => await (.deliver k (decodeByte (first8 s.session.group))) s

/-- The answer to the `PoutWrite` of payload byte `k` (R220). -/
def decodeDeliver (k : Nat) (b : Byte) (w : WriteResult) (s : State) : State :=
  match w with
  | .err => raise .ioError s
  | .ok => decodePayload (k + 1) (poutDelivered b s)

end Sys2Proof.Machine
end

