-- ==== Sys2Proof/Machine/FrameEncode.lean ====
section
/-! DEFINITION. ENCODE (43_frame_encode.md rules R180 to R192): its acceptance, and the session program cut at its stream
transactions (20_memory.md rule R91 b). -/

namespace Sys2Proof.Machine

/-- ENCODE (R181): the operands are latched, `CAP_*`, `REQ_*` and the counters cleared, and ArgumentError is raised before
any port is touched; otherwise the session starts with the first header read (R182). -/
def execEncode (s : State) : Host.Outcome State Fault Refusal :=
  let t := clearCounters (accept false s)
  if s.extLen.toNat > s.params.extMax.val ∨ s.payloadLen.toNat > s.params.payloadMax.toNat
  then .next (raise .argumentError t)
  else .next (startSession
    { Session.idle with kind := .encode, cont := .header 0, el := s.extLen, ext := s.ext, pl := s.payloadLen } t)

/-- Payload byte `k` (R191): its `SinRead`, or the end of the phase and the first tail read (R192). -/
def encodePayload (k : Nat) (s : State) : State :=
  if k < s.session.pl.toNat then await (.payloadIn k) s else await .tail (setPhase .payloadDone s)

/-- Extension character `k` (R189), or the end of the phase and the payload-length field (R190). -/
def encodeExt (k : Nat) (s : State) : State :=
  if k < s.session.el.toNat then startGroup (.ext k) s else startGroup .payloadLen (setPhase .extDone s)

/-- Marker byte `k` (R187), or the end of the phase and the extension-length field (R188). -/
def encodeMarker (k : Nat) (s : State) : State :=
  if k < s.params.markerLen.val then startGroup (.marker k) s else startGroup .extLen (setPhase .markerDone s)

/-- What follows the last byte of a field's group (R187 to R191). -/
def encodeAfter (f : Field) (s : State) : State :=
  match f with
  | .marker k => encodeMarker (k + 1) s
  | .extLen => encodeExt 0 (setPhase .extLenDone s)
  | .ext k => encodeExt (k + 1) s
  | .payloadLen => encodePayload 0 (setPhase .payloadLenDone s)
  | .payload k => encodePayload (k + 1) s

/-- The capacity pre-flight, in the step of the last header byte and before any `CoutWrite` (R184), then the header copy
(R185). -/
def encodePreflight (s : State) : State :=
  let t := loadRequired s.session.el s.session.pl (loadCapacity s)
  if hasCapacity (imageCapacityBytes s.width s.height)
      (requiredBits s.params.markerLen.val s.session.el.toNat s.session.pl.toNat)
  then await (.headerOut 0) (setCapOk t)
  else raise .capacityError t

/-- A full group: it is encoded in place and its first byte written (R186). -/
def encodeGroup (f : Field) (s : State) : State :=
  await (.emit f 0) { s with session := { s.session with group := encodedGroup s.params s.session f } }

/-- The end of the carrier (R192): TAIL_COPIED and DONE in one step. -/
def encodeFinish (s : State) : State := complete .none (setPhase .done (setPhase .tailCopied s))

/-- The answer to a `SinRead` (R191). -/
def encodeSin (k : Nat) (r : ReadResult) (s : State) : State :=
  match r with
  | .err | .endOfStream => raise .ioError s
  | .byte b =>
    let t := sinReceived b s
    startGroup (.payload k) { t with session := { t.session with sinByte := b } }

/-- The answer to a `CinRead` in the tail (R192): `End` is the normal end of the session. -/
def encodeTail (r : ReadResult) (s : State) : State :=
  match r with
  | .err => raise .ioError s
  | .endOfStream => encodeFinish s
  | .byte b => await (.tailOut b) (cinReceived b s)

/-- The answer to the `CoutWrite` of header byte `k` (R185). -/
def encodeHeaderOut (k : Fin 54) (w : WriteResult) (s : State) : State :=
  match w with
  | .err => raise .ioError s
  | .ok =>
    let t := coutDelivered (s.session.hdr.get k) s
    if h : k.val + 1 < 54 then await (.headerOut ⟨k.val + 1, h⟩) t else encodeMarker 0 (setPhase .headerDone t)

/-- The answer to the `CoutWrite` of byte `k` of an encoded group (R186). -/
def encodeEmit (f : Field) (k : Fin 32) (w : WriteResult) (s : State) : State :=
  match w with
  | .err => raise .ioError s
  | .ok =>
    let t := coutDelivered (s.session.group.get k) s
    if h : k.val + 1 < groupSize f then await (.emit f ⟨k.val + 1, Nat.lt_of_lt_of_le h (groupSize_le f)⟩) t
    else encodeAfter f t

/-- The answer to the `CoutWrite` of a tail byte (R192). -/
def encodeTailOut (b : Byte) (w : WriteResult) (s : State) : State :=
  match w with
  | .err => raise .ioError s
  | .ok => await .tail (coutDelivered b s)

end Sys2Proof.Machine
end

