-- ==== Sys2Proof/Machine/Dispatch.lean ====
section
/-! DEFINITION. What the acceptance of each command does (40_command.md rule R121). A primitive command is complete in this
step; ENCODE and DECODE start their session, which Machine/Engine.lean carries on. -/

namespace Sys2Proof.Machine

def exec (i : Instr) (s : State) : Host.Outcome State Fault Refusal :=
  match i with
  | .nop => Sys2Proof.Machine.execNop s
  | .encb => Sys2Proof.Machine.execEncb s
  | .decb => Sys2Proof.Machine.execDecb s
  | .encw => Sys2Proof.Machine.execEncw s
  | .decw => Sys2Proof.Machine.execDecw s
  | .capchk => Sys2Proof.Machine.execCapchk s
  | .encode => Sys2Proof.Machine.execEncode s
  | .decode => Sys2Proof.Machine.execDecode s

end Sys2Proof.Machine
end

