-- ==== Sys2Proof/Machine/Bus.lean ====
section
/-! DEFINITION. The register bus (20_memory.md rules R70 to R72), the access classes (10_state.md rules R22, R23), and the
acceptance of a command by a write to `CMD` (40_command.md rule R120). -/

namespace Sys2Proof.Machine

/-- A transaction the bus carries out: word-aligned, with all four byte lanes (R72). -/
def busAligned (off : BitVec 8) (lanes : BitVec 4) : Bool := off.extractLsb' 0 2 == 0 && lanes == 0xF

/-- The window register at a word-aligned offset, 0x60 to 0x7C (R21). -/
def cwinIndex (off : BitVec 8) : Option (Fin 8) :=
  if h : 0x60 ≤ off.toNat ∧ off.toNat < 0x80 then some ⟨(off.toNat - 0x60) / 4, by omega⟩ else none

/-- The current value of the register at an offset; a reserved offset reads 0 (R21, R22, R23). -/
def readRegister (off : BitVec 8) (s : State) : Word :=
  if off = 0x00 then idWord
  else if off = 0x04 then ctrlWord s.ie s.mchk
  else if off = 0x08 then s.cmd
  else if off = 0x0C then s.status.word
  else if off = 0x10 then s.value
  else if off = 0x14 then s.width
  else if off = 0x18 then s.height
  else if off = 0x1C then s.extLen
  else if off = 0x20 then s.ext
  else if off = 0x24 then s.payloadLen
  else if off = 0x28 then s.cap.extractLsb' 0 32
  else if off = 0x2C then s.cap.extractLsb' 32 32
  else if off = 0x30 then (s.cap.extractLsb' 64 2).setWidth 32
  else if off = 0x34 then s.req.extractLsb' 0 32
  else if off = 0x38 then (s.req.setWidth 64).extractLsb' 32 32
  else if off = 0x3C then markerWord s.params
  else if off = 0x40 then paramWord s.params
  else if off = 0x44 then s.params.payloadMax
  else if off = 0x48 then s.cinPos.extractLsb' 0 32
  else if off = 0x4C then s.cinPos.extractLsb' 32 32
  else if off = 0x50 then s.outPos.extractLsb' 0 32
  else if off = 0x54 then s.outPos.extractLsb' 32 32
  else if off = 0x58 then s.sinPos
  else if off = 0x5C then s.dmarker
  else
    match cwinIndex off with
    | some j => cwinRead s.cw j
    | none => 0

/-- A write to `CTRL`, whatever `BUSY` is (R25, 40_command.md rule R125). -/
def writeCtrl (v : Word) (s : State) : State :=
  { s with
    ie := v.getLsbD 0, mchk := v.getLsbD 2,
    status := { s.status with done := if v.getLsbD 1 then false else s.status.done } }

/-- The register at an offset is of class RW-data (R21). -/
def isRwData (off : BitVec 8) : Bool :=
  [0x10, 0x14, 0x18, 0x1C, 0x20, 0x24, 0x60, 0x64, 0x68, 0x6C, 0x70, 0x74, 0x78, 0x7C].contains off

/-- The effect of an accepted write on an RW-data register (R22): the whole register is replaced. -/
def storeRwData (off : BitVec 8) (v : Word) (s : State) : State :=
  { s with
    value := if off = 0x10 then v else s.value
    width := if off = 0x14 then v else s.width
    height := if off = 0x18 then v else s.height
    extLen := if off = 0x1C then v else s.extLen
    ext := if off = 0x20 then v else s.ext
    payloadLen := if off = 0x24 then v else s.payloadLen
    cw :=
      match cwinIndex off with
      | some j => cwinWrite s.cw j v
      | none => s.cw }

/-- A write to a register that is neither `CTRL` nor `CMD` (R22, R23): an RW-data register is replaced, or `WIGN` set if
the block is busy; an RO register or a reserved offset ignores the write. -/
def writeData (off : BitVec 8) (v : Word) (s : State) : State :=
  if isRwData off then (if s.status.busy then setWign s else storeRwData off v s) else s

/-- The acceptance of a command word (40_command.md rule R121). -/
def acceptCmd (w : Word) (s : State) : Host.Outcome State Fault Refusal :=
  match decodeCmd w with
  | .command i => exec i s
  | .illegal _ => .next (illegalCommand s)

/-- A write to `CMD` (40_command.md rule R120): stored and accepted in one transition, or lost with `WIGN` set if the block
is busy. -/
def writeCmd (w : Word) (s : State) : Host.Outcome State Fault Refusal :=
  if s.status.busy then .next (setWign s) else acceptCmd w { s with cmd := w }

/-- `RegRead` (R71, R72): no side effect but the answer. -/
def regRead (off : BitVec 8) (lanes : BitVec 4) (s : State) : State :=
  if busAligned off lanes then answerBus (.data (readRegister off s)) s else answerBus .busError s

/-- `RegWrite` (R71, R72): a write that a register ignores is answered `Ok` (DEDUCED, notes/assumptions/8.md). -/
def regWrite (off : BitVec 8) (lanes : BitVec 4) (v : Word) (s : State) : Host.Outcome State Fault Refusal :=
  if busAligned off lanes then
    (if off = 0x08 then writeCmd v (answerBus .ok s)
     else if off = 0x04 then .next (writeCtrl v (answerBus .ok s))
     else .next (writeData off v (answerBus .ok s)))
  else .next (answerBus .busError s)

end Sys2Proof.Machine
end

