-- ==== Sys2Proof/Machine/Engine.lean ====
section
/-! DEFINITION. The engine steps of 20_memory.md rule R91 (b): the host's answer to the pending stream transaction, with all
the session pseudocode computes after it. -/

namespace Sys2Proof.Machine

/-- An answer to a `CinRead` or `SinRead`, by the point the session has reached. -/
def answerRead (r : ReadResult) (s : State) : Host.Outcome State Fault Refusal :=
  match s.session.kind with
  | .none => .fault .unsolicitedAnswer
  | .encode =>
    match s.session.cont with
    | .header k => .next (readHeader encodePreflight k r s)
    | .fill f k => .next (readGroup encodeGroup f k r s)
    | .payloadIn k => .next (encodeSin k r s)
    | .tail => .next (encodeTail r s)
    | .idle | .headerOut _ | .emit _ _ | .tailOut _ | .deliver _ _ => .fault .unsolicitedAnswer
  | .decode =>
    match s.session.cont with
    | .header k => .next (readHeader decodeHeaderDone k r s)
    | .fill f k => .next (readGroup decodeGroup f k r s)
    | .idle | .headerOut _ | .payloadIn _ | .emit _ _ | .tail | .tailOut _ | .deliver _ _ => .fault .unsolicitedAnswer

/-- An answer to a `CoutWrite` or `PoutWrite`, by the point the session has reached. -/
def answerWrite (w : WriteResult) (s : State) : Host.Outcome State Fault Refusal :=
  match s.session.kind with
  | .none => .fault .unsolicitedAnswer
  | .encode =>
    match s.session.cont with
    | .headerOut k => .next (encodeHeaderOut k w s)
    | .emit f k => .next (encodeEmit f k w s)
    | .tailOut b => .next (encodeTailOut b w s)
    | .idle | .header _ | .payloadIn _ | .fill _ _ | .tail | .deliver _ _ => .fault .unsolicitedAnswer
  | .decode =>
    match s.session.cont with
    | .deliver k b => .next (decodeDeliver k b w s)
    | .idle | .header _ | .headerOut _ | .payloadIn _ | .fill _ _ | .emit _ _ | .tail | .tailOut _ =>
      .fault .unsolicitedAnswer

end Sys2Proof.Machine
end

