-- ==== Sys2Proof/Machine/HostMove.lean ====
section
/-! DEFINITION. One move of the interleaving of 20_memory.md rule R90: a bus transaction, an answer to the pending stream
transaction, or the reset input (70_reset_and_hazards.md rules R270, R271). -/

namespace Sys2Proof.Machine

/-- A move while `rst` is asserted (R270): no step is performed and no bus transaction is answered; the release ends it. -/
def moveInReset (e : HostEvent) (s : State) : State :=
  match e with
  | .rstRelease => releaseReset s
  | .regRead _ _ | .regWrite _ _ _ | .readAnswer _ | .writeAnswer _ | .rstAssert => s

/-- A move while `rst` is released. -/
def moveRunning (e : HostEvent) (s : State) : Host.Outcome State Fault Refusal :=
  match e with
  | .regRead off lanes => .next (regRead off lanes s)
  | .regWrite off lanes v => regWrite off lanes v s
  | .readAnswer r => answerRead r s
  | .writeAnswer w => answerWrite w s
  | .rstAssert => .next (assertReset s)
  | .rstRelease => .next s

/-- One move of the host on the block. -/
def hostMove (e : HostEvent) (s : State) : Host.Outcome State Fault Refusal :=
  if s.rst then .next (moveInReset e s) else moveRunning e s

/-- One transition: the host's next move, or none at all, in which case an idle block keeps every register
(60_exceptions.md rule R258) and a session holds (20_memory.md rule R79). -/
def transition (s : State) : Host.Outcome State Fault Refusal :=
  match s.host with
  | [] => .next s
  | e :: rest => hostMove e { s with host := rest }

/-- The block idle and out of reset, its next move a full-word write of `w` to `CMD`: what it takes for the next transition
to accept `w` (40_command.md rule R120). -/
def placeCommand (w : Word) (s : State) : State :=
  { s with
    rst := false, status := { s.status with busy := false }, session := Session.idle,
    host := .regWrite 0x08 0xF w :: s.host }

end Sys2Proof.Machine
end

