-- ==== Sys2Proof/Machine/Step.lean ====
section
/-! DEFINITION. The step function, and how the host's question places a command. -/

namespace Sys2Proof.Machine

/-- One step: one atomic transition of 20_memory.md rule R90. -/
def step (s : State) : Host.Outcome State Fault Refusal := transition s

/-- The state in which the next step accepts the command word whose table bits are `w` (the block fetches nothing:
a command is the word the host writes to `CMD`, 20_memory.md rule R89). -/
def State.withFetchWord (s : State) (nbits w : Nat) : State := placeCommand (BitVec.ofNat 32 (w % 2 ^ nbits)) s

end Sys2Proof.Machine
end

