-- ==== Sys2Proof/Safety.lean ====
section
/-! DEFINITION. What claims about runs are said in: what a step leaves unchanged, the status and counter invariants, the
frame as a function of the carrier offset (20_memory.md rule R82), and how far a running session has got. -/

namespace Sys2Proof.Machine

/-- Every register of 10_state.md rule R21 but `STATUS` is the same in both states. -/
def SameRegs (s t : State) : Prop :=
  t.ie = s.ie ∧ t.mchk = s.mchk ∧ t.cmd = s.cmd ∧ t.value = s.value ∧ t.width = s.width ∧ t.height = s.height ∧
  t.extLen = s.extLen ∧ t.ext = s.ext ∧ t.payloadLen = s.payloadLen ∧ t.cap = s.cap ∧ t.req = s.req ∧
  t.cinPos = s.cinPos ∧ t.outPos = s.outPos ∧ t.sinPos = s.sinPos ∧ t.dmarker = s.dmarker ∧ t.cw = s.cw

/-- The four ports stand where they stood. -/
def SamePorts (s t : State) : Prop := t.cin = s.cin ∧ t.sin = s.sin ∧ t.cout = s.cout ∧ t.pout = s.pout

/-- The parameters, the reset input, the last bus answer and the host's further moves are the same. -/
def SameOutside (s t : State) : Prop := t.params = s.params ∧ t.rst = s.rst ∧ t.bus = s.bus ∧ t.host = s.host

/-- The status fields a completed primitive command leaves, given `ERR` and `CAP_OK` (40_command.md rules R121, R122). -/
def PrimitiveStatus (e : ErrKind) (capOk : Bool) : Status :=
  { busy := false, done := true, capOk := capOk, wign := false, mmatch := false, err := e, phase := .idle, mode := false }

/-- A command or session ended in state `u`, the session discarded with no transaction pending (40_command.md rule R122).
What the discarded session items hold is left open. -/
def Completes (u : State) (o : Host.Outcome State Fault Refusal) : Prop :=
  ∃ x : Session, x.kind = .none ∧ x.pending = none ∧ o = .next { u with session := x }

/-- The command or session of state `u` ended with error `e` at once, nothing else changed (60_exceptions.md rule R243). -/
def Raises (e : ErrKind) (u : State) (o : Host.Outcome State Fault Refusal) : Prop :=
  Completes { u with status := { u.status with err := e, busy := false, done := true } } o

/-- The session of state `u` goes on at `c`, as session `x` but for `cont`. -/
def Continues (c : Cont) (x : Session) (u : State) (o : Host.Outcome State Fault Refusal) : Prop :=
  o = .next { u with session := { x with cont := c } }

/-- A move of the host that answers a stream transaction. -/
def isAnswer : HostEvent → Bool
  | .readAnswer _ | .writeAnswer _ => true
  | .regRead _ _ | .regWrite _ _ _ | .rstAssert | .rstRelease => false

/-- An answer fits the pending transaction: a read answer to a read, a write answer to a write (20_memory.md rule R78). Any
other move of the host needs no transaction. -/
def answerFits (e : HostEvent) (p : Option Transaction) : Bool :=
  match e with
  | .readAnswer _ => p == some .cinRead || p == some .sinRead
  | .writeAnswer _ =>
    match p with
    | some (.coutWrite _) | some (.poutWrite _) => true
    | some .cinRead | some .sinRead | none => false
  | .regRead _ _ | .regWrite _ _ _ | .rstAssert | .rstRelease => true

/-- The header buffer a carrier fills. -/
def headerOf (carrier : List Byte) : Vector Byte 54 := Vector.ofFn fun k => carrier.getD k.val 0

/-- The answer of a stream with fixed contents at a position: its byte there, then `End` (20_memory.md rules R77, R80). -/
def streamAnswer (l : List Byte) (pos : Nat) : ReadResult :=
  match l[pos]? with
  | some b => .byte b
  | none => .endOfStream

/-- The move of a host that serves a session from a fixed carrier and payload and takes every output byte (R78, R80), none
when no transaction is pending. -/
def serveMove (carrier payload : List Byte) (s : State) : Option HostEvent :=
  match s.pending with
  | none => none
  | some .cinRead => some (.readAnswer (streamAnswer carrier s.cin.length))
  | some .sinRead => some (.readAnswer (streamAnswer payload s.sin.length))
  | some (.coutWrite _) | some (.poutWrite _) => some (.writeAnswer .ok)

/-- `n` steps of a session served so, fewer if it ends earlier. -/
def serve (carrier payload : List Byte) : Nat → State → Host.Outcome State Fault Refusal
  | 0, s => .next s
  | n + 1, s =>
    match serveMove carrier payload s with
    | none => .next s
    | some e =>
      match step { s with host := e :: s.host } with
      | .next t => serve carrier payload n t
      | .fault f => .fault f
      | .refused r => .refused r

/-- The status invariant: `BUSY` is 1 exactly while a session runs, with its transaction pending; a running session has
`DONE` = 0 and `ERR` = 0 and its own `MODE`; TAIL_COPIED is never seen; `CAP_OK` and `MMATCH` belong to their commands
(R27 to R34, R52, R53). `idle_in_reset` rests on the model's choice of the fields while `rst` is asserted (log entry 7). -/
structure StatusInv (s : State) : Prop where
  busy_iff : s.status.busy = true ↔ s.session.kind ≠ .none
  pending_of_busy : s.status.busy = true → s.pending ≠ none
  done_of_busy : s.status.busy = true → s.status.done = false
  err_of_busy : s.status.busy = true → s.status.err = .none
  mode_of_encode : s.session.kind = .encode → s.status.mode = false
  mode_of_decode : s.session.kind = .decode → s.status.mode = true
  phase_ne : s.status.phase ≠ .tailCopied
  capOk_mode : s.status.capOk = true → s.status.mode = false
  mmatch_mode : s.status.mmatch = true → s.status.mode = true
  idle_in_reset : s.rst = true → s.status.busy = false ∧ s.status.done = false

/-- The counters count what the ports carried (R48, R49, R50), and a session uses no port but its own (R76): the records are
emptied at every acceptance of a session command by the model's choice (log entry 4). -/
structure CounterInv (s : State) : Prop where
  cin_eq : s.cinPos = BitVec.ofNat 64 s.cin.length
  out_eq : s.outPos = BitVec.ofNat 64 (s.cout.length + s.pout.length)
  sin_eq : s.sinPos = BitVec.ofNat 32 s.sin.length
  encode_ports : s.session.kind = .encode → s.pout = []
  decode_ports : s.session.kind = .decode → s.sin = [] ∧ s.cout = []

/-- The first carrier offset of a field's group (R82). -/
def fieldStart (p : Params) (el : Nat) : Field → Nat
  | .marker k => 54 + 8 * k
  | .extLen => 54 + 8 * p.markerLen.val
  | .ext k => 54 + 8 * p.markerLen.val + 32 + 8 * k
  | .payloadLen => 54 + 8 * (p.markerLen.val + el) + 32
  | .payload k => 54 + 8 * (p.markerLen.val + el + k) + 64

/-- `F_END` (R82). -/
def frameEnd (p : Params) (el pl : Nat) : Nat := 54 + 8 * (p.markerLen.val + el + pl) + 64

/-- The frame has such a field (R82). -/
def fieldInFrame (p : Params) (el pl : Nat) : Field → Prop
  | .marker k => k < p.markerLen.val
  | .extLen | .payloadLen => True
  | .ext k => k < el
  | .payload k => k < pl

/-- The frame bit at a carrier offset (R82 with 41_bitpacker.md rule R144), none outside the frame. -/
def frameBit (p : Params) (el ext pl : Word) (payload : List Byte) (off : Nat) : Option Bool :=
  if off < 54 then none
  else if off < fieldStart p el.toNat .extLen then
    some ((byteOf p.marker ((off - 54) / 8)).getMsbD ((off - 54) % 8))
  else if off < fieldStart p el.toNat (.ext 0) then some (el.getMsbD (off - fieldStart p el.toNat .extLen))
  else if off < fieldStart p el.toNat .payloadLen then
    some ((byteOf ext ((off - fieldStart p el.toNat (.ext 0)) / 8)).getMsbD ((off - fieldStart p el.toNat (.ext 0)) % 8))
  else if off < fieldStart p el.toNat (.payload 0) then some (pl.getMsbD (off - fieldStart p el.toNat .payloadLen))
  else (payload[(off - fieldStart p el.toNat (.payload 0)) / 8]?).map fun b =>
    b.getMsbD ((off - fieldStart p el.toNat (.payload 0)) % 8)

/-- The output byte of a carrier byte at an offset: bit 0 is the frame bit where there is one (43_frame_encode.md rule
R194). -/
def stegoByte (p : Params) (el ext pl : Word) (payload : List Byte) (off : Nat) (b : Byte) : Byte :=
  match frameBit p el ext pl payload off with
  | some v => setLsb b v
  | none => b

/-- `out` is the stego image of the carrier's first bytes, as far as it goes (R194). -/
def IsStego (p : Params) (el ext pl : Word) (payload carrier out : List Byte) : Prop :=
  out.length ≤ carrier.length ∧
  ∀ j, j < out.length → out[j]? = (carrier[j]?).map (stegoByte p el ext pl payload j)

/-- The byte field whose group starts at a carrier offset (41_bitpacker.md rule R141). -/
def byteAt (c : List Byte) (off : Nat) : Byte := decodeByte (Vector.ofFn fun k => c.getD (off + k.val) 0)

/-- The 32-bit field whose group starts at a carrier offset (R143). -/
def wordAt (c : List Byte) (off : Nat) : Word := decodeInt32 (Vector.ofFn fun k => c.getD (off + k.val) 0)

/-- The phase a session has completed when it works on a field (R187 to R191, R214 to R220). -/
def phaseBefore : Field → Phase
  | .marker _ => .headerDone
  | .extLen => .markerDone
  | .ext _ => .extLenDone
  | .payloadLen => .extDone
  | .payload _ => .payloadLenDone

/-- How many payload bytes ENCODE has taken from SIN when it works on a field's group (R191). -/
def sinTaken : Field → Nat
  | .payload k => k + 1
  | .marker _ | .extLen | .ext _ | .payloadLen => 0

/-- Byte `j` of a 32-byte group, 0 beyond it. -/
def groupByte (g : Vector Byte 32) (j : Nat) : Byte := if h : j < 32 then g.get ⟨j, h⟩ else 0

/-- Byte `j` of the header buffer, 0 beyond it. -/
def headerByte (h : Vector Byte 54) (j : Nat) : Byte := if hj : j < 54 then h.get ⟨j, hj⟩ else 0

/-- The header bytes read so far are in `HDR`, and the signature is right once both its bytes are there (R182, R183). -/
def HeaderRead (s : State) (k : Nat) : Prop :=
  (∀ j, j < k → s.cin[j]? = some (headerByte s.session.hdr j)) ∧ (2 ≤ k → signatureOk s.session.hdr = true)

/-- Where the two directions of a running ENCODE stand at its point in the program (R182 to R192). -/
def EncodePoint (s : State) : Prop :=
  let x := s.session
  let start := fieldStart s.params x.el.toNat
  match x.cont with
  | .header k =>
    s.cin.length = k.val ∧ s.cout = [] ∧ s.sin = [] ∧ HeaderRead s k.val ∧ s.status.phase = .idle ∧
      s.status.capOk = false
  | .headerOut k =>
    s.cin.length = 54 ∧ s.cout.length = k.val ∧ s.sin = [] ∧ s.status.phase = .idle ∧ s.status.capOk = true
  | .payloadIn k =>
    k < x.pl.toNat ∧ s.sin.length = k ∧ s.cin.length = start (.payload k) ∧ s.cout.length = s.cin.length ∧
      s.status.phase = .payloadLenDone ∧ s.status.capOk = true
  | .fill f k =>
    fieldInFrame s.params x.el.toNat x.pl.toNat f ∧ k.val < groupSize f ∧ s.sin.length = sinTaken f ∧
      (∀ j, f = .payload j → s.sin[j]? = some x.sinByte) ∧ s.cin.length = start f + k.val ∧ s.cout.length = start f ∧
      (∀ j, j < k.val → s.cin[start f + j]? = some (groupByte x.group j)) ∧ s.status.phase = phaseBefore f ∧
      s.status.capOk = true
  | .emit f k =>
    fieldInFrame s.params x.el.toNat x.pl.toNat f ∧ k.val < groupSize f ∧ s.sin.length = sinTaken f ∧
      s.cin.length = start f + groupSize f ∧ s.cout.length = start f + k.val ∧
      (∀ j, j < groupSize f → some (groupByte x.group j) =
        (s.cin[start f + j]?).map (stegoByte s.params x.el x.ext x.pl s.sin (start f + j))) ∧
      s.status.phase = phaseBefore f ∧ s.status.capOk = true
  | .tail =>
    s.sin.length = x.pl.toNat ∧ frameEnd s.params x.el.toNat x.pl.toNat ≤ s.cin.length ∧
      s.cout.length = s.cin.length ∧ s.status.phase = .payloadDone ∧ s.status.capOk = true
  | .tailOut b =>
    s.sin.length = x.pl.toNat ∧ frameEnd s.params x.el.toNat x.pl.toNat ≤ s.cout.length ∧
      s.cin.length = s.cout.length + 1 ∧ s.cin[s.cout.length]? = some b ∧ s.status.phase = .payloadDone ∧
      s.status.capOk = true
  | .idle | .deliver _ _ => False

/-- What ENCODE has established once its capacity check has passed (R183, R184): the header is read, and the capacity it
declares is at least the required bits. -/
structure EncodeChecked (s : State) : Prop where
  header : HeaderRead s 54
  width_eq : s.width = headerWidth s.session.hdr
  height_eq : s.height = headerHeight s.session.hdr
  cap_eq : s.cap.toNat = imageCapacityBytes s.width s.height
  req_eq : s.req.toNat = requiredBits s.params.markerLen.val s.session.el.toNat s.session.pl.toNat
  fits : s.req.toNat ≤ s.cap.toNat

/-- The trace invariant of ENCODE: while one runs, its latched operands are the registers', within their bounds, COUT is
the stego image of CIN and SIN as far as it goes, and the ports stand where the program is. -/
structure EncodeTrace (s : State) : Prop where
  el_eq : s.session.kind = .encode → s.session.el = s.extLen
  ext_eq : s.session.kind = .encode → s.session.ext = s.ext
  pl_eq : s.session.kind = .encode → s.session.pl = s.payloadLen
  el_le : s.session.kind = .encode → s.session.el.toNat ≤ s.params.extMax.val
  pl_le : s.session.kind = .encode → s.session.pl.toNat ≤ s.params.payloadMax.toNat
  busy : s.session.kind = .encode → s.status.busy = true
  checked : s.session.kind = .encode → s.status.capOk = true → EncodeChecked s
  stego : s.session.kind = .encode →
    IsStego s.params s.session.el s.session.ext s.session.pl s.sin s.cin s.cout
  point : s.session.kind = .encode → EncodePoint s

/-- How many marker bytes DECODE has when it works on a field (R214). -/
def markersBefore (p : Params) : Field → Nat
  | .marker k => k
  | .extLen | .ext _ | .payloadLen | .payload _ => p.markerLen.val

/-- DECODE has all marker bytes and has compared them (R215). -/
def pastMarkers : Field → Bool
  | .marker _ => false
  | .extLen | .ext _ | .payloadLen | .payload _ => true

/-- How many extension characters DECODE has when it works on a field (R218). -/
def extsBefore (el : Nat) : Field → Nat
  | .marker _ | .extLen => 0
  | .ext k => k
  | .payloadLen | .payload _ => el

/-- DECODE has the extension length (R216). -/
def hasExtLen : Field → Bool
  | .marker _ | .extLen => false
  | .ext _ | .payloadLen | .payload _ => true

/-- DECODE has the payload length (R219). -/
def hasPayloadLen : Field → Bool
  | .marker _ | .extLen | .ext _ | .payloadLen => false
  | .payload _ => true

/-- How many payload bytes DECODE has delivered when it works on a field (R220). -/
def deliveredBefore : Field → Nat
  | .marker _ | .extLen | .ext _ | .payloadLen => 0
  | .payload k => k

/-- What the result registers and POUT hold, read off the carrier, when DECODE works on field `f` (R214 to R220). -/
structure DecodedUpTo (s : State) (f : Field) : Prop where
  dmarker : ∀ j, j < markersBefore s.params f → byteOf s.dmarker j = byteAt s.cin (fieldStart s.params 0 (.marker j))
  dmarker_rest : ∀ j, markersBefore s.params f ≤ j → j < 4 → byteOf s.dmarker j = 0
  extLen : hasExtLen f = true → s.extLen = wordAt s.cin (fieldStart s.params 0 .extLen)
  extLen_rest : hasExtLen f = false → s.extLen = 0
  ext : ∀ j, j < extsBefore s.extLen.toNat f → byteOf s.ext j = byteAt s.cin (fieldStart s.params 0 (.ext j))
  ext_rest : ∀ j, extsBefore s.extLen.toNat f ≤ j → j < 4 → byteOf s.ext j = 0
  payloadLen : hasPayloadLen f = true →
    s.payloadLen = wordAt s.cin (fieldStart s.params s.extLen.toNat .payloadLen)
  payloadLen_rest : hasPayloadLen f = false → s.payloadLen = 0
  pout_length : s.pout.length = deliveredBefore f
  pout : ∀ j, j < s.pout.length →
    s.pout[j]? = some (byteAt s.cin (fieldStart s.params s.extLen.toNat (.payload j)))

/-- Where a running DECODE stands at its point in the program (R211 to R221). -/
def DecodePoint (s : State) : Prop :=
  let x := s.session
  let start := fieldStart s.params x.el.toNat
  match x.cont with
  | .header k =>
    s.cin.length = k.val ∧ HeaderRead s k.val ∧ DecodedUpTo s (.marker 0) ∧ s.status.phase = .idle ∧
      s.status.mmatch = false
  | .fill f k =>
    fieldInFrame s.params x.el.toNat x.pl.toNat f ∧ k.val < groupSize f ∧ s.cin.length = start f + k.val ∧
      HeaderRead s 54 ∧ s.cap.toNat = imageCapacityBytes s.width s.height ∧
      s.width = headerWidth x.hdr ∧ s.height = headerHeight x.hdr ∧
      (∀ j, j < k.val → s.cin[start f + j]? = some (groupByte x.group j)) ∧ DecodedUpTo s f ∧
      s.status.phase = phaseBefore f ∧
      s.status.mmatch = (pastMarkers f && markerMatches s.params s.dmarker) ∧
      (pastMarkers f = true → x.mchkL = true → s.status.mmatch = true)
  | .deliver k b =>
    k < x.pl.toNat ∧ s.cin.length = start (.payload (k + 1)) ∧ HeaderRead s 54 ∧
      s.cap.toNat = imageCapacityBytes s.width s.height ∧ s.width = headerWidth x.hdr ∧
      s.height = headerHeight x.hdr ∧ b = byteAt s.cin (start (.payload k)) ∧ DecodedUpTo s (.payload k) ∧
      s.status.phase = .payloadLenDone ∧ s.status.mmatch = markerMatches s.params s.dmarker ∧
      (x.mchkL = true → s.status.mmatch = true)
  | .idle | .headerOut _ | .payloadIn _ | .emit _ _ | .tail | .tailOut _ => False

/-- The trace invariant of DECODE: while one runs, its lengths are the result registers', within their bounds, and every
result is what the carrier's LSBs say at its place in the frame. -/
structure DecodeTrace (s : State) : Prop where
  el_eq : s.session.kind = .decode → s.session.el = s.extLen
  pl_eq : s.session.kind = .decode → s.session.pl = s.payloadLen
  el_le : s.session.kind = .decode → s.session.el.toNat ≤ s.params.extMax.val
  pl_le : s.session.kind = .decode → s.session.pl.toNat ≤ s.params.payloadMax.toNat
  busy : s.session.kind = .decode → s.status.busy = true
  point : s.session.kind = .decode → DecodePoint s

end Sys2Proof.Machine
end

