-- ==== Sys2Proof/Certificates/Slice0/Obligations.lean ====
section
/-! DEFINITION. The statements for the provers. Each docstring names the rule of spec/ it formalises; a clause that rests on
a choice of the model names its log entry. -/

open Sys2Proof Sys2Proof.Machine

/-! ### Encoding -/

/-- 30_encoding.md rule R104: the word of each command, and nothing else, decodes to it; every other word is illegal. -/
def Obligations.DecodingIsTotal : Prop :=
  ∀ w : Word,
    (decodeCmd w = .command .nop ↔ w = 0x00000000) ∧ (decodeCmd w = .command .encb ↔ w = 0x00000001) ∧
    (decodeCmd w = .command .decb ↔ w = 0x00000002) ∧ (decodeCmd w = .command .encw ↔ w = 0x00000003) ∧
    (decodeCmd w = .command .decw ↔ w = 0x00000004) ∧ (decodeCmd w = .command .capchk ↔ w = 0x00000005) ∧
    (decodeCmd w = .command .encode ↔ w = 0x00000010) ∧ (decodeCmd w = .command .decode ↔ w = 0x00000011) ∧
    ((∃ why, decodeCmd w = .illegal why) ↔
      w.extractLsb' 8 24 ≠ 0 ∨ w.extractLsb' 0 8 ∉ ([0x00, 0x01, 0x02, 0x03, 0x04, 0x05, 0x10, 0x11] : List (BitVec 8)))

/-- R100, R103: a word decodes to a command exactly if it is the command's encoding. -/
def Obligations.DecodeEncodeAgree : Prop :=
  ∀ (i : Instr) (w : Word), decodeCmd w = .command i ↔ w = encode i

/-- R103 and vectors C-3 to C-6 of 95_test_vectors.md: a few words. -/
def Obligations.FewWordsDecode : Prop :=
  decodeCmd 0x00000000 = .command .nop ∧ decodeCmd 0x00000001 = .command .encb ∧
  decodeCmd 0x00000005 = .command .capchk ∧ decodeCmd 0x00000010 = .command .encode ∧
  decodeCmd 0x00000011 = .command .decode ∧ decodeCmd 0x00000006 = .illegal .undefinedOp ∧
  decodeCmd 0x00000111 = .illegal .reservedBits ∧ decodeCmd 0x80000010 = .illegal .reservedBits

/-! ### The command frame -/

/-- 40_command.md rule R120: a full-word write to `CMD` of an idle block runs the command of the word on the state that
holds the word, and a step makes no other change around it but to take the host's move and answer the bus. -/
def Obligations.StepRunsDecodedCommand : Prop :=
  ∀ (s : State) (rest : List HostEvent) (w : Word) (i : Instr),
    s.rst = false → s.status.busy = false → s.host = .regWrite 0x08 0xF w :: rest → decodeCmd w = .command i →
    step s = exec i { s with host := rest, bus := some .ok, cmd := w }

/-- The host's question: a placed command is what the next step runs (log entry 3 says how a command comes to run). -/
def Obligations.PlacedCommandRuns : Prop :=
  ∀ (i : Instr) (s : State),
    step (s.withFetchWord 32 (encode i).toNat) =
      exec i { s with
        rst := false, status := { s.status with busy := false }, session := Session.idle, bus := some .ok,
        cmd := encode i }

/-- R124: an illegal word written to `CMD` of an idle block completes at once with CommandError and changes nothing but
`CMD` and `STATUS`. -/
def Obligations.IllegalWordIsCommandError : Prop :=
  ∀ (s : State) (rest : List HostEvent) (w : Word),
    s.rst = false → s.status.busy = false → s.host = .regWrite 0x08 0xF w :: rest →
    (w.extractLsb' 8 24 ≠ 0 ∨
      w.extractLsb' 0 8 ∉ ([0x00, 0x01, 0x02, 0x03, 0x04, 0x05, 0x10, 0x11] : List (BitVec 8))) →
    Completes { s with host := rest, bus := some .ok, cmd := w, status := PrimitiveStatus .commandError false } (step s)

/-- R123: NOP completes without error, and changes nothing but `STATUS`. -/
def Obligations.NopCompletes : Prop :=
  decodeCmd 0x00000000 = .command .nop ∧
  ∀ s : State, Completes { s with status := PrimitiveStatus .none false } (exec .nop s)

/-- 10_state.md rule R33: `WIGN` is set by an ignored write to `CMD` or to an RW-data register, which does nothing else;
acceptance of a command clears it, nothing else but reset does, and it is 0 after reset. The bus answer is left open. -/
def Obligations.WriteIgnoredFlag : Prop :=
  (∀ (s : State) (rest : List HostEvent) (off : BitVec 8) (v : Word),
    s.rst = false → s.status.busy = true → s.host = .regWrite off 0xF v :: rest → (off = 0x08 ∨ isRwData off = true) →
    ∃ a, step s = .next { s with host := rest, bus := a, status := { s.status with wign := true } }) ∧
  (∀ (i : Instr) (s t : State), exec i s = .next t → t.status.wign = false) ∧
  (∀ s t : State, step s = .next t → s.status.wign = true → t.status.wign = false →
    ∃ rest, s.host = .rstAssert :: rest ∨ (s.status.busy = false ∧ ∃ w, s.host = .regWrite 0x08 0xF w :: rest)) ∧
  State.reset.status.wign = false

/-! ### The register bus -/

/-- R27 with R35, which the spec marks as its own inference from R27 to R34: the fields of the value of `STATUS`, `ERR` with
the codes of R29 (60_exceptions.md rule R241), `STATE` with the codes of R30, and the two examples of R35. -/
def Obligations.StatusValueLayout : Prop :=
  (∀ s : State,
    let v := readRegister 0x0C s
    v.getLsbD 0 = s.status.busy ∧ v.getLsbD 1 = s.status.done ∧ v.getLsbD 2 = s.status.capOk ∧
    v.getLsbD 3 = s.status.wign ∧ v.getLsbD 4 = s.status.mmatch ∧ v.extractLsb' 5 3 = 0 ∧
    v.extractLsb' 8 4 =
      (match s.status.err with
       | .none => 0 | .formatError => 1 | .capacityError => 2 | .ioError => 3 | .argumentError => 4
       | .commandError => 5) ∧
    v.extractLsb' 12 4 =
      (match s.status.phase with
       | .idle => 0 | .headerDone => 1 | .markerDone => 2 | .extLenDone => 3 | .extDone => 4 | .payloadLenDone => 5
       | .payloadDone => 6 | .tailCopied => 7 | .done => 8) ∧
    v.getLsbD 16 = s.status.mode ∧ v.extractLsb' 17 15 = 0) ∧
  (∀ s : State, s.status = { PrimitiveStatus .none true with phase := .done } → readRegister 0x0C s = 0x00008006) ∧
  (∀ s : State, s.status = { PrimitiveStatus .none false with phase := .done, mmatch := true, mode := true } →
    readRegister 0x0C s = 0x00018012)

/-- R21 with the rules it names: what each register reads as, but for `STATUS` (`StatusValueLayout`) and the `CAP` and `REQ`
registers (`CapacityRegistersExact`). -/
def Obligations.RegisterMap : Prop :=
  ∀ s : State,
    readRegister 0x00 s = 0x4C534201 ∧
    (∀ i, i < 32 → (readRegister 0x04 s).getLsbD i = if i = 0 then s.ie else if i = 2 then s.mchk else false) ∧
    readRegister 0x08 s = s.cmd ∧ readRegister 0x10 s = s.value ∧
    readRegister 0x14 s = s.width ∧ readRegister 0x18 s = s.height ∧ readRegister 0x1C s = s.extLen ∧
    readRegister 0x20 s = s.ext ∧ readRegister 0x24 s = s.payloadLen ∧ readRegister 0x5C s = s.dmarker ∧
    readRegister 0x58 s = s.sinPos ∧ readRegister 0x44 s = s.params.payloadMax ∧
    (readRegister 0x48 s).toNat + 2 ^ 32 * (readRegister 0x4C s).toNat = s.cinPos.toNat ∧
    (readRegister 0x50 s).toNat + 2 ^ 32 * (readRegister 0x54 s).toNat = s.outPos.toNat ∧
    (∀ k, k < 4 → byteOf (readRegister 0x3C s) k = if k < s.params.markerLen.val then byteOf s.params.marker k else 0) ∧
    readRegister 0x40 s = BitVec.ofNat 32 (256 * s.params.extMax.val + s.params.markerLen.val) ∧
    ∀ (j : Fin 8) (i : Fin 4),
      byteOf (readRegister (0x60 + 4 * BitVec.ofNat 8 j.val) s) i.val = s.cw.get ⟨4 * j.val + i.val, by omega⟩

/-- R42, R43: the three `CAP` registers and the two `REQ` registers hold the exact values of 42_capacity.md rules R160 and
R161, which never wrap. -/
def Obligations.CapacityRegistersExact : Prop :=
  (∀ s : State,
    (readRegister 0x28 s).toNat + 2 ^ 32 * (readRegister 0x2C s).toNat + 2 ^ 64 * (readRegister 0x30 s).toNat =
      s.cap.toNat ∧
    (readRegister 0x34 s).toNat + 2 ^ 32 * (readRegister 0x38 s).toNat = s.req.toNat) ∧
  (∀ w h : Word, (BitVec.ofNat 66 (w.toNat * h.toNat * 3)).toNat = w.toNat * h.toNat * 3) ∧
  ∀ (p : Params) (el pl : Word),
    (BitVec.ofNat 37 (requiredBits p.markerLen.val el.toNat pl.toNat)).toNat =
      8 * (12 + p.markerLen.val + el.toNat + pl.toNat)

/-- 20_memory.md rule R71, R22: a full-word read of an aligned offset answers the register's value and has no other effect;
an unaligned or partial one has none at all but `BusError`. -/
def Obligations.ReadsHaveNoSideEffect : Prop :=
  ∀ (s : State) (rest : List HostEvent) (off : BitVec 8) (lanes : BitVec 4),
    s.rst = false → s.host = .regRead off lanes :: rest →
    step s = .next { s with
      host := rest,
      bus := some (if off.toNat % 4 = 0 ∧ lanes = 0xF then .data (readRegister off s) else .busError) }

/-- R72: a write that is unaligned or enables fewer than four byte lanes is answered `BusError` and changes nothing, and so
is such a read. -/
def Obligations.BusErrorChangesNothing : Prop :=
  ∀ (s : State) (rest : List HostEvent) (off : BitVec 8) (lanes : BitVec 4),
    s.rst = false → (off.toNat % 4 ≠ 0 ∨ lanes ≠ 0xF) →
    ((∃ v, s.host = .regWrite off lanes v :: rest) ∨ s.host = .regRead off lanes :: rest) →
    step s = .next { s with host := rest, bus := some .busError }

/-- R23: reserved bits and offsets read as 0, writes to them are ignored, and a write to `CTRL` keeps the defined fields
only. The bus answer to an ignored write is left open. -/
def Obligations.ReservedReadsZero : Prop :=
  (∀ (s : State) (off : BitVec 8), 0x80 ≤ off.toNat → readRegister off s = 0) ∧
  (∀ s : State, (readRegister 0x0C s).extractLsb' 5 3 = 0 ∧ (readRegister 0x0C s).extractLsb' 17 15 = 0 ∧
    (readRegister 0x04 s).extractLsb' 3 29 = 0) ∧
  (∀ (s : State) (rest : List HostEvent) (off : BitVec 8) (v : Word),
    s.rst = false → off.toNat % 4 = 0 → 0x80 ≤ off.toNat → s.host = .regWrite off 0xF v :: rest →
    ∃ a, step s = .next { s with host := rest, bus := a }) ∧
  ∀ (s : State) (rest : List HostEvent) (v : Word),
    s.rst = false → s.host = .regWrite 0x04 0xF v :: rest →
    ∃ t, step s = .next t ∧ readRegister 0x04 t = v &&& 0x00000005

/-- R22: a full-word write to an RW-data register of an idle block replaces the whole register; every other register reads
as before, and nothing else changes. -/
def Obligations.DataWriteReadsBack : Prop :=
  ∀ (s : State) (rest : List HostEvent) (off : BitVec 8) (v : Word),
    s.rst = false → s.status.busy = false → isRwData off = true → s.host = .regWrite off 0xF v :: rest →
    ∃ t, step s = .next t ∧ readRegister off t = v ∧
      (∀ off' : BitVec 8, off'.toNat % 4 = 0 → off' ≠ off → readRegister off' t = readRegister off' s) ∧
      t.status = s.status ∧ t.session = s.session ∧ SamePorts s t ∧ t.params = s.params ∧ t.rst = s.rst ∧
      t.host = rest ∧ t.bus = some .ok

/-- R22: a full-word write to an RO register is ignored, whatever `BUSY` is: nothing changes but the bus answer, which is
left open. -/
def Obligations.ReadOnlyWriteIgnored : Prop :=
  ∀ (s : State) (rest : List HostEvent) (off : BitVec 8) (v : Word),
    s.rst = false → s.host = .regWrite off 0xF v :: rest →
    off ∈ ([0x00, 0x0C, 0x28, 0x2C, 0x30, 0x34, 0x38, 0x3C, 0x40, 0x44, 0x48, 0x4C, 0x50, 0x54, 0x58, 0x5C] :
      List (BitVec 8)) →
    ∃ a, step s = .next { s with host := rest, bus := a }

/-- 40_command.md rule R125, R25: a write to `CTRL` takes effect whatever `BUSY` is, stores `IE` and `MCHK`, clears `DONE` if
bit 1 is 1 and changes nothing else; while `BUSY` = 1, `DONE` is 0 already. -/
def Obligations.CtrlWrite : Prop :=
  ∀ (s : State) (rest : List HostEvent) (v : Word),
    s.rst = false → s.host = .regWrite 0x04 0xF v :: rest →
    step s = .next { s with
      host := rest, bus := some .ok, ie := v.getLsbD 0, mchk := v.getLsbD 2,
      status := { s.status with done := s.status.done && !v.getLsbD 1 } } ∧
    (StatusInv s → s.status.busy = true → s.status.done = false)

/-- 60_exceptions.md rule R250: `irq` is bit 0 of `CTRL` and bit 1 of `STATUS`; clearing `DONE` or `IE` clears it, so does the
acceptance of a session command, and it is 0 at reset. -/
def Obligations.InterruptLevel : Prop :=
  (∀ s : State, s.irq = true ↔ (readRegister 0x04 s).getLsbD 0 = true ∧ (readRegister 0x0C s).getLsbD 1 = true) ∧
  (∀ (s : State) (rest : List HostEvent) (v : Word), s.rst = false → s.host = .regWrite 0x04 0xF v :: rest →
    (v.getLsbD 1 = true ∨ v.getLsbD 0 = false) → ∃ t, step s = .next t ∧ t.irq = false) ∧
  (∀ s t : State, (exec .encode s = .next t ∨ exec .decode s = .next t) → t.status.busy = true → t.irq = false) ∧
  State.reset.irq = false

/-! ### The bit packer -/

/-- 41_bitpacker.md rules R140 to R143: carrier byte `k` of an encoded byte field holds bit `7-k` in its bit 0 and keeps bits
7:1, of a 32-bit field bit `31-k`, and decoding reads the same bits. -/
def Obligations.BitPlacement : Prop :=
  (∀ (v : Byte) (c : Vector Byte 8) (k : Fin 8),
    ((encodeByte v c).get k).getLsbD 0 = v.getLsbD (7 - k.val) ∧
    (decodeByte c).getLsbD (7 - k.val) = (c.get k).getLsbD 0 ∧
    ∀ i, 0 < i → i < 8 → ((encodeByte v c).get k).getLsbD i = (c.get k).getLsbD i) ∧
  ∀ (w : Word) (c : Vector Byte 32) (k : Fin 32),
    ((encodeInt32 w c).get k).getLsbD 0 = w.getLsbD (31 - k.val) ∧
    (decodeInt32 c).getLsbD (31 - k.val) = (c.get k).getLsbD 0 ∧
    ∀ i, 0 < i → i < 8 → ((encodeInt32 w c).get k).getLsbD i = (c.get k).getLsbD i

/-- R145: the round-trip law. -/
def Obligations.BitPackerRoundTrip : Prop :=
  (∀ (v : Byte) (c : Vector Byte 8), decodeByte (encodeByte v c) = v) ∧
  ∀ (w : Word) (c : Vector Byte 32), decodeInt32 (encodeInt32 w c) = w

/-- R146, which the spec marks as its own inference from R140 to R143: the preservation laws. -/
def Obligations.BitPackerPreservation : Prop :=
  (∀ (v : Byte) (c : Vector Byte 8) (k : Fin 8),
    ((encodeByte v c).get k).extractLsb' 1 7 = (c.get k).extractLsb' 1 7) ∧
  (∀ (w : Word) (c : Vector Byte 32) (k : Fin 32),
    ((encodeInt32 w c).get k).extractLsb' 1 7 = (c.get k).extractLsb' 1 7) ∧
  (∀ c : Vector Byte 8, encodeByte (decodeByte c) c = c) ∧ ∀ c : Vector Byte 32, encodeInt32 (decodeInt32 c) c = c

/-- R151, which the spec marks as its own inference from R140 to R143: the 32-bit forms are four byte forms, the most significant byte first. -/
def Obligations.WordIsFourBytes : Prop :=
  ∀ (w : Word) (c0 c1 c2 c3 : Vector Byte 8) (c : Vector Byte 32),
    c.toList = c0.toList ++ c1.toList ++ c2.toList ++ c3.toList →
    (encodeInt32 w c).toList =
      (encodeByte (byteOf w 3) c0).toList ++ (encodeByte (byteOf w 2) c1).toList ++
        (encodeByte (byteOf w 1) c2).toList ++ (encodeByte (byteOf w 0) c3).toList ∧
    decodeInt32 c = ofBytes (decodeByte c3) (decodeByte c2) (decodeByte c1) (decodeByte c0)

/-- R147: ENCB puts bit `7-k` of `VALUE` into bit 0 of `CW[k]`, k below 8, and changes nothing else but `STATUS`. -/
def Obligations.EncbResult : Prop :=
  decodeCmd 0x00000001 = .command .encb ∧
  ∀ s : State, ∃ c : Vector Byte 32,
    (∀ k : Fin 32, c.get k =
      if k.val < 8 then (s.cw.get k).extractLsb' 1 7 ++ BitVec.ofBool (s.value.getLsbD (7 - k.val)) else s.cw.get k) ∧
    Completes { s with status := PrimitiveStatus .none false, cw := c } (exec .encb s)

/-- R148: DECB puts bit 0 of `CW[7-i]` into bit `i` of `VALUE`, i below 8, clears bits 31:8, and changes nothing else but
`STATUS`. -/
def Obligations.DecbResult : Prop :=
  decodeCmd 0x00000002 = .command .decb ∧
  ∀ s : State, ∃ v : Word,
    (∀ i : Fin 32, v.getLsbD i.val = if i.val < 8 then (s.cw.get ⟨7 - i.val, by omega⟩).getLsbD 0 else false) ∧
    Completes { s with status := PrimitiveStatus .none false, value := v } (exec .decb s)

/-- R149: ENCW puts bit `31-k` of `VALUE` into bit 0 of `CW[k]`, and changes nothing else but `STATUS`. -/
def Obligations.EncwResult : Prop :=
  decodeCmd 0x00000003 = .command .encw ∧
  ∀ s : State, ∃ c : Vector Byte 32,
    (∀ k : Fin 32, c.get k = (s.cw.get k).extractLsb' 1 7 ++ BitVec.ofBool (s.value.getLsbD (31 - k.val))) ∧
    Completes { s with status := PrimitiveStatus .none false, cw := c } (exec .encw s)

/-- R150: DECW puts bit 0 of `CW[31-i]` into bit `i` of `VALUE`, and changes nothing else but `STATUS`. -/
def Obligations.DecwResult : Prop :=
  decodeCmd 0x00000004 = .command .decw ∧
  ∀ s : State, ∃ v : Word,
    (∀ i : Fin 32, v.getLsbD i.val = (s.cw.get ⟨31 - i.val, by omega⟩).getLsbD 0) ∧
    Completes { s with status := PrimitiveStatus .none false, value := v } (exec .decw s)

/-- W9 of 95_test_vectors.md and the end of program P1: ENCB then DECB gives back the low byte, ENCW then DECW the word, and
ENCW then DECB its top byte, whatever the window held. -/
def Obligations.PackThenUnpack : Prop :=
  ∀ s t u : State,
    (exec .encb s = .next t → exec .decb t = .next u → u.value = s.value &&& 0x000000FF ∧ u.cw = t.cw) ∧
    (exec .encw s = .next t → exec .decw t = .next u → u.value = s.value ∧ u.cw = t.cw) ∧
    (exec .encw s = .next t → exec .decb t = .next u → u.value = s.value >>> 24 ∧ u.cw = t.cw)

/-! ### The capacity check -/

/-- 42_capacity.md rules R160, R161, R162: the exact formulas with their bounds, and the check, which fails exactly when the
capacity is below the required bits. -/
def Obligations.CapacityFormulas : Prop :=
  (∀ w h : Word, imageCapacityBytes w h = w.toNat * h.toNat * 3 ∧ imageCapacityBytes w h < 2 ^ 66) ∧
  (∀ (p : Params) (e l : Word),
    requiredBits p.markerLen.val e.toNat l.toNat = 8 * (12 + p.markerLen.val + e.toNat + l.toNat) ∧
    96 ≤ requiredBits p.markerLen.val e.toNat l.toNat ∧ requiredBits p.markerLen.val e.toNat l.toNat < 2 ^ 37) ∧
  ∀ cap req : Nat, hasCapacity cap req = false ↔ cap < req

/-- R164, which the spec marks as its own inference from R161 and R82: the frame uses 32 carrier bytes fewer than the check asks for, so a carrier that passes keeps 32 to spare, and one
that the frame would just fit is refused. -/
def Obligations.CapacityMargin : Prop :=
  ∀ (p : Params) (el pl cap : Nat),
    frameEnd p el pl - 54 = 8 * (p.markerLen.val + el + pl) + 64 ∧
    frameEnd p el pl - 54 = requiredBits p.markerLen.val el pl - 32 ∧
    (hasCapacity cap (requiredBits p.markerLen.val el pl) = true → frameEnd p el pl - 54 + 32 ≤ cap) ∧
    hasCapacity (requiredBits p.markerLen.val el pl - 32) (requiredBits p.markerLen.val el pl) = false

/-- R166: CAPCHK writes the capacity and the required bits of its operands and reports whether the capacity suffices; it
changes nothing else. -/
def Obligations.CapchkResult : Prop :=
  decodeCmd 0x00000005 = .command .capchk ∧
  ∀ s : State,
    let cap := s.width.toNat * s.height.toNat * 3
    let req := 8 * (12 + s.params.markerLen.val + s.extLen.toNat + s.payloadLen.toNat)
    let u := { s with cap := BitVec.ofNat 66 cap, req := BitVec.ofNat 37 req }
    (req ≤ cap → Completes { u with status := PrimitiveStatus .none true } (exec .capchk s)) ∧
    (cap < req → Completes { u with status := PrimitiveStatus .capacityError false } (exec .capchk s)) ∧
    readRegister 0x28 u = BitVec.ofNat 32 cap ∧ readRegister 0x2C u = BitVec.ofNat 32 (cap / 2 ^ 32) ∧
    readRegister 0x30 u = BitVec.ofNat 32 (cap / 2 ^ 64) ∧ readRegister 0x34 u = BitVec.ofNat 32 req ∧
    readRegister 0x38 u = BitVec.ofNat 32 (req / 2 ^ 32)

/-! ### Sessions: start and single steps -/

/-- 43_frame_encode.md rule R181: ENCODE latches its operands, clears `CAP`, `REQ` and the counters and waits for the first
header byte with `BUSY` = 1; out of bounds it completes with ArgumentError and `BUSY` = 0. The records of ports the rule
does not name are left open. -/
def Obligations.EncodeStarts : Prop :=
  ∀ s : State,
    let u := { s with cap := 0, req := 0, cinPos := 0, outPos := 0, sinPos := 0 }
    (s.extLen.toNat ≤ s.params.extMax.val ∧ s.payloadLen.toNat ≤ s.params.payloadMax.toNat →
      ∃ (x : Session) (o : List Byte),
        x.kind = .encode ∧ x.el = s.extLen ∧ x.ext = s.ext ∧ x.pl = s.payloadLen ∧ x.pending = some .cinRead ∧
        exec .encode s = .next { u with
          status := { PrimitiveStatus .none false with busy := true, done := false }, session := x,
          cin := [], sin := [], cout := [], pout := o }) ∧
    (s.params.extMax.val < s.extLen.toNat ∨ s.params.payloadMax.toNat < s.payloadLen.toNat →
      ∃ a b c d : List Byte,
        Completes
          { u with status := PrimitiveStatus .argumentError false, cin := a, sin := b, cout := c, pout := d }
          (exec .encode s))

/-- 44_frame_decode.md rule R210, its acceptance step: DECODE clears its result registers, `CAP`, `REQ` and the counters,
latches `MCHK` and waits for the first header byte; it raises no error. -/
def Obligations.DecodeStarts : Prop :=
  ∀ s : State, ∃ (x : Session) (i o : List Byte),
    x.kind = .decode ∧ x.mchkL = s.mchk ∧ x.pending = some .cinRead ∧
    exec .decode s = .next { s with
      extLen := 0, ext := 0, payloadLen := 0, dmarker := 0, cap := 0, req := 0, cinPos := 0, outPos := 0, sinPos := 0,
      status := { PrimitiveStatus .none false with busy := true, done := false, mode := true }, session := x,
      cin := [], pout := [], sin := i, cout := o }

/-- R182 (for both sessions, R211): the two signature bytes are read before they are compared; a wrong one or a stream of
fewer than two bytes is a FormatError, `Err` an IOError. -/
def Obligations.SignatureCheck : Prop :=
  ∀ (s : State) (rest : List HostEvent) (r : ReadResult) (k : Fin 54),
    s.rst = false → s.session.kind ≠ .none → s.session.cont = .header k → k.val < 2 →
    s.host = .readAnswer r :: rest →
    let u := { s with host := rest }
    match r with
    | .endOfStream => Raises .formatError u (step s)
    | .err => Raises .ioError u (step s)
    | .byte b =>
      let v := { u with cin := s.cin ++ [b], cinPos := s.cinPos + 1 }
      (k.val = 0 → Continues (.header 1) { s.session with hdr := s.session.hdr.set 0 b } v (step s)) ∧
      (k.val = 1 → s.session.hdr.get 0 = 0x42 → b = 0x4D →
        Continues (.header 2) { s.session with hdr := s.session.hdr.set 1 b } v (step s)) ∧
      (k.val = 1 → (s.session.hdr.get 0 ≠ 0x42 ∨ b ≠ 0x4D) → Raises .formatError v (step s))

/-- R184: in the step of the last header byte ENCODE writes `WIDTH`, `HEIGHT`, `CAP` and `REQ` and goes on to copy the header
only if the capacity suffices; COUT has received nothing. -/
def Obligations.CapacityPreflight : Prop :=
  ∀ (s : State) (rest : List HostEvent) (b : Byte),
    s.rst = false → s.session.kind = .encode → s.session.cont = .header 53 → s.host = .readAnswer (.byte b) :: rest →
    let hdr := s.session.hdr.set 53 b
    let cap := (headerWidth hdr).toNat * (headerHeight hdr).toNat * 3
    let req := 8 * (12 + s.params.markerLen.val + s.session.el.toNat + s.session.pl.toNat)
    let u := { s with
      host := rest, cin := s.cin ++ [b], cinPos := s.cinPos + 1, width := headerWidth hdr, height := headerHeight hdr,
      cap := BitVec.ofNat 66 cap, req := BitVec.ofNat 37 req }
    (req ≤ cap →
      Continues (.headerOut 0) { s.session with hdr := hdr } { u with status := { s.status with capOk := true } } (step s)) ∧
    (cap < req → Raises .capacityError u (step s)) ∧ (EncodeTrace s → s.cout = [])

/-- R215: after the last marker byte, or after the header if there is no marker, DECODE writes `MMATCH`; a mismatch is a
FormatError if `MCHK` was 1 at acceptance. -/
def Obligations.MarkerCheck : Prop :=
  (∀ (s : State) (rest : List HostEvent) (b : Byte) (j : Nat) (m : Bool),
    s.rst = false → s.session.kind = .decode → s.session.cont = .fill (.marker j) 7 →
    j + 1 = s.params.markerLen.val → s.host = .readAnswer (.byte b) :: rest →
    let g := s.session.group.set 7 b
    let d := setByte s.dmarker j (decodeByte (first8 g))
    (m = true ↔ ∀ k, k < s.params.markerLen.val → byteOf d k = byteOf s.params.marker k) →
    let u := { s with
      host := rest, cin := s.cin ++ [b], cinPos := s.cinPos + 1, dmarker := d, status := { s.status with mmatch := m } }
    (s.session.mchkL = true ∧ m = false → Raises .formatError u (step s)) ∧
    (s.session.mchkL = false ∨ m = true →
      Continues (.fill .extLen 0) { s.session with group := g }
        { u with status := { u.status with phase := .markerDone } } (step s))) ∧
  ∀ (s : State) (rest : List HostEvent) (b : Byte),
    s.rst = false → s.session.kind = .decode → s.session.cont = .header 53 → s.params.markerLen.val = 0 →
    s.host = .readAnswer (.byte b) :: rest →
    let hdr := s.session.hdr.set 53 b
    Continues (.fill .extLen 0) { s.session with hdr := hdr }
      { s with
        host := rest, cin := s.cin ++ [b], cinPos := s.cinPos + 1, width := headerWidth hdr, height := headerHeight hdr,
        cap := BitVec.ofNat 66 ((headerWidth hdr).toNat * (headerHeight hdr).toNat * 3),
        status := { s.status with mmatch := true, phase := .markerDone } } (step s)

/-- R216, R217: the decoded extension length is written, then bounded by `EXT_MAX` and by the remaining capacity, an exact
signed integer; a length of 0 ends the extension phase in the same step. -/
def Obligations.ExtensionLengthBounds : Prop :=
  ∀ (s : State) (rest : List HostEvent) (b : Byte),
    s.rst = false → s.session.kind = .decode → s.session.cont = .fill .extLen 31 →
    s.host = .readAnswer (.byte b) :: rest →
    let g := s.session.group.set 31 b
    let n := decodeInt32 g
    let rem : Int := (s.cap.toNat : Int) - (((s.cinPos + 1).toNat : Int) - 54)
    let u := { s with host := rest, cin := s.cin ++ [b], cinPos := s.cinPos + 1, extLen := n }
    let x := { s.session with group := g, el := n }
    (s.params.extMax.val < n.toNat ∨ rem < 8 * (n.toNat : Int) → Raises .formatError u (step s)) ∧
    (n.toNat ≤ s.params.extMax.val → 8 * (n.toNat : Int) ≤ rem → 0 < n.toNat →
      Continues (.fill (.ext 0) 0) x { u with status := { s.status with phase := .extLenDone } } (step s)) ∧
    (n.toNat ≤ s.params.extMax.val → 8 * (n.toNat : Int) ≤ rem → n.toNat = 0 →
      Continues (.fill .payloadLen 0) x { u with status := { s.status with phase := .extDone } } (step s))

/-- R219: the decoded payload length is written, then bounded by `PAYLOAD_MAX` and by the remaining capacity; a length of 0
ends the session in the same step (R221). -/
def Obligations.PayloadLengthBounds : Prop :=
  ∀ (s : State) (rest : List HostEvent) (b : Byte),
    s.rst = false → s.session.kind = .decode → s.session.cont = .fill .payloadLen 31 →
    s.host = .readAnswer (.byte b) :: rest →
    let g := s.session.group.set 31 b
    let n := decodeInt32 g
    let rem : Int := (s.cap.toNat : Int) - (((s.cinPos + 1).toNat : Int) - 54)
    let u := { s with host := rest, cin := s.cin ++ [b], cinPos := s.cinPos + 1, payloadLen := n }
    let x := { s.session with group := g, pl := n }
    (s.params.payloadMax.toNat < n.toNat ∨ rem < 8 * (n.toNat : Int) → Raises .formatError u (step s)) ∧
    (n.toNat ≤ s.params.payloadMax.toNat → 8 * (n.toNat : Int) ≤ rem → 0 < n.toNat →
      Continues (.fill (.payload 0) 0) x { u with status := { s.status with phase := .payloadLenDone } } (step s)) ∧
    (n.toNat ≤ s.params.payloadMax.toNat → 8 * (n.toNat : Int) ≤ rem → n.toNat = 0 →
      Raises .none { u with status := { s.status with phase := .done } } (step s))

/-- R192: the tail is copied byte by byte until `End`, which ends ENCODE without error in phase DONE. -/
def Obligations.TailPassthrough : Prop :=
  (∀ (s : State) (rest : List HostEvent) (r : ReadResult),
    s.rst = false → s.session.kind = .encode → s.session.cont = .tail → s.host = .readAnswer r :: rest →
    match r with
    | .byte b =>
      Continues (.tailOut b) s.session { s with host := rest, cin := s.cin ++ [b], cinPos := s.cinPos + 1 } (step s)
    | .endOfStream => Raises .none { s with host := rest, status := { s.status with phase := .done } } (step s)
    | .err => Raises .ioError { s with host := rest } (step s)) ∧
  ∀ (s : State) (rest : List HostEvent) (w : WriteResult) (b : Byte),
    s.rst = false → s.session.kind = .encode → s.session.cont = .tailOut b → s.host = .writeAnswer w :: rest →
    match w with
    | .ok => Continues .tail s.session { s with host := rest, cout := s.cout ++ [b], outPos := s.outPos + 1 } (step s)
    | .err => Raises .ioError { s with host := rest } (step s)

/-- 60_exceptions.md rule R244: how `End` and `Err` map to an error, by port and phase. -/
def Obligations.StreamErrorTable : Prop :=
  ∀ (s : State) (rest : List HostEvent), s.rst = false → s.session.kind ≠ .none →
    let u := { s with host := rest }
    (∀ k, s.session.cont = .header k → s.host = .readAnswer .endOfStream :: rest →
      Raises (if k.val < 2 then .formatError else .ioError) u (step s)) ∧
    (∀ k, s.session.cont = .header k → s.host = .readAnswer .err :: rest → Raises .ioError u (step s)) ∧
    (∀ f k r, s.session.cont = .fill f k → (r = .endOfStream ∨ r = .err) → s.host = .readAnswer r :: rest →
      Raises .ioError u (step s)) ∧
    (s.session.kind = .encode → s.session.cont = .tail → s.host = .readAnswer .endOfStream :: rest →
      Raises .none { u with status := { s.status with phase := .done } } (step s)) ∧
    (s.session.kind = .encode → s.session.cont = .tail → s.host = .readAnswer .err :: rest →
      Raises .ioError u (step s)) ∧
    (∀ r, s.pending = some .sinRead → (r = .endOfStream ∨ r = .err) → s.host = .readAnswer r :: rest →
      Raises .ioError u (step s)) ∧
    (∀ b, (s.pending = some (.coutWrite b) ∨ s.pending = some (.poutWrite b)) → s.host = .writeAnswer .err :: rest →
      Raises .ioError u (step s))

/-- 20_memory.md rule R78: what a fitting answer does to the four ports and their counters. -/
def Obligations.AnswersAdvancePorts : Prop :=
  ∀ (s t : State) (rest : List HostEvent), s.rst = false → step s = .next t →
    (∀ b, s.host = .readAnswer (.byte b) :: rest → s.pending = some .cinRead →
      t.cin = s.cin ++ [b] ∧ t.cinPos = s.cinPos + 1 ∧ t.sin = s.sin ∧ t.sinPos = s.sinPos ∧ t.cout = s.cout ∧
        t.pout = s.pout ∧ t.outPos = s.outPos) ∧
    (∀ b, s.host = .readAnswer (.byte b) :: rest → s.pending = some .sinRead →
      t.sin = s.sin ++ [b] ∧ t.sinPos = s.sinPos + 1 ∧ t.cin = s.cin ∧ t.cinPos = s.cinPos ∧ t.cout = s.cout ∧
        t.pout = s.pout ∧ t.outPos = s.outPos) ∧
    (∀ b, s.host = .writeAnswer .ok :: rest → s.pending = some (.coutWrite b) →
      t.cout = s.cout ++ [b] ∧ t.outPos = s.outPos + 1 ∧ t.cin = s.cin ∧ t.cinPos = s.cinPos ∧ t.sin = s.sin ∧
        t.sinPos = s.sinPos ∧ t.pout = s.pout) ∧
    (∀ b, s.host = .writeAnswer .ok :: rest → s.pending = some (.poutWrite b) →
      t.pout = s.pout ++ [b] ∧ t.outPos = s.outPos + 1 ∧ t.cin = s.cin ∧ t.cinPos = s.cinPos ∧ t.sin = s.sin ∧
        t.sinPos = s.sinPos ∧ t.cout = s.cout) ∧
    ((s.host = .readAnswer .endOfStream :: rest ∨ s.host = .readAnswer .err :: rest ∨ s.host = .writeAnswer .err :: rest) →
      SamePorts s t ∧ t.cinPos = s.cinPos ∧ t.sinPos = s.sinPos ∧ t.outPos = s.outPos)

/-- R243 with 43_frame_encode.md rule R195 and R246, which the spec marks as its own inference from R243: a step that ends a
session with an error keeps `STATE` and every byte carried, discards the session, and changes no register but `STATUS` unless
it took a byte from CIN. Then that byte is counted, and a register has the value that this step's rule writes before the
check that fails (R184, R214, R216, R219), or is unchanged. -/
def Obligations.ErrorsArePrecise : Prop :=
  ∀ s t : State, StatusInv s → s.status.busy = true → step s = .next t → t.status.err ≠ .none →
    t.status.busy = false ∧ t.status.done = true ∧ t.session.kind = .none ∧ t.pending = none ∧
    t.status.phase = s.status.phase ∧ t.status.mode = s.status.mode ∧ t.cout = s.cout ∧ t.pout = s.pout ∧
    t.outPos = s.outPos ∧ t.sin = s.sin ∧ t.sinPos = s.sinPos ∧ t.value = s.value ∧ t.cw = s.cw ∧ t.cmd = s.cmd ∧
    t.ie = s.ie ∧ t.mchk = s.mchk ∧ t.ext = s.ext ∧
    ((∀ b rest, s.host ≠ .readAnswer (.byte b) :: rest) → SameRegs s t ∧ t.cin = s.cin) ∧
    ∀ b rest, s.host = .readAnswer (.byte b) :: rest →
      let c := s.session.cont
      let hdr := s.session.hdr.set 53 b
      let w := headerWidth hdr
      let h := headerHeight hdr
      t.cin = s.cin ++ [b] ∧ t.cinPos = s.cinPos + 1 ∧
      t.width = (if c = .header 53 then w else s.width) ∧ t.height = (if c = .header 53 then h else s.height) ∧
      t.cap = (if c = .header 53 then BitVec.ofNat 66 (w.toNat * h.toNat * 3) else s.cap) ∧
      t.req = (if c = .header 53 then
        BitVec.ofNat 37 (8 * (12 + s.params.markerLen.val + s.session.el.toNat + s.session.pl.toNat)) else s.req) ∧
      t.dmarker = (match c with
        | .fill (.marker j) k => setByte s.dmarker j (decodeByte (first8 (s.session.group.set k.val b)))
        | _ => s.dmarker) ∧
      t.extLen = (match c with
        | .fill .extLen k => decodeInt32 (s.session.group.set k.val b)
        | _ => s.extLen) ∧
      t.payloadLen = (match c with
        | .fill .payloadLen k => decodeInt32 (s.session.group.set k.val b)
        | _ => s.payloadLen)

/-! ### Sessions: whole runs -/

/-- 43_frame_encode.md rule R194, which the spec marks as its own inference from R185 to R192: the output laws of a successful ENCODE, at the step that completes it. -/
def Obligations.EncodeOutputLaws : Prop :=
  ∀ s t : State, EncodeTrace s → CounterInv s → s.session.kind = .encode → step s = .next t →
    t.status.busy = false → t.status.done = true → t.status.err = .none →
    t.cout.length = t.cin.length ∧ t.cinPos = BitVec.ofNat 64 t.cin.length ∧ t.outPos = BitVec.ofNat 64 t.cin.length ∧
    t.cout.take 54 = t.cin.take 54 ∧
    (∀ (k : Nat) (a b : Byte), t.cin[k]? = some a → t.cout[k]? = some b → b.extractLsb' 1 7 = a.extractLsb' 1 7) ∧
    (∀ k, frameEnd t.params t.extLen.toNat t.payloadLen.toNat ≤ k → t.cout[k]? = t.cin[k]?) ∧
    (∀ k, 54 ≤ k → k < frameEnd t.params t.extLen.toNat t.payloadLen.toNat →
      ∃ v b, frameBit t.params t.extLen t.ext t.payloadLen t.sin k = some v ∧ t.cout[k]? = some b ∧ lsb b = v) ∧
    t.sinPos = t.payloadLen ∧ t.sin.length = t.payloadLen.toNat

/-- 44_frame_decode.md rule R222 and the results of R214 to R220: a successful DECODE has read the carrier up to the end of
the frame and no further, and its results are what the carrier's bits say at their places. -/
def Obligations.DecodeResultLaws : Prop :=
  ∀ s t : State, DecodeTrace s → CounterInv s → s.session.kind = .decode → step s = .next t →
    t.status.busy = false → t.status.done = true → t.status.err = .none →
    let el := t.extLen.toNat
    t.cin.length = frameEnd t.params el t.payloadLen.toNat ∧ t.cinPos = BitVec.ofNat 64 t.cin.length ∧
    signatureOk (headerOf t.cin) = true ∧ t.width = headerWidth (headerOf t.cin) ∧
    t.height = headerHeight (headerOf t.cin) ∧ t.cap.toNat = t.width.toNat * t.height.toNat * 3 ∧
    (∀ k, k < t.params.markerLen.val → byteOf t.dmarker k = byteAt t.cin (fieldStart t.params el (.marker k))) ∧
    t.extLen = wordAt t.cin (fieldStart t.params el .extLen) ∧ el ≤ t.params.extMax.val ∧
    (∀ k, k < 4 → byteOf t.ext k = if k < el then byteAt t.cin (fieldStart t.params el (.ext k)) else 0) ∧
    t.payloadLen = wordAt t.cin (fieldStart t.params el .payloadLen) ∧
    t.payloadLen.toNat ≤ t.params.payloadMax.toNat ∧ t.pout.length = t.payloadLen.toNat ∧
    (∀ k, k < t.pout.length → t.pout[k]? = some (byteAt t.cin (fieldStart t.params el (.payload k)))) ∧
    (t.status.mmatch = true ↔ ∀ k, k < t.params.markerLen.val → byteOf t.dmarker k = byteOf t.params.marker k) ∧
    (s.session.mchkL = true → t.status.mmatch = true) ∧ t.status.phase = .done

/-- R194 with 41_bitpacker.md rule R145: every field of the frame reads back from the output carrier of ENCODE. -/
def Obligations.FrameReadsBack : Prop :=
  ∀ (p : Params) (el ext pl : Word) (payload carrier out : List Byte),
    IsStego p el ext pl payload carrier out → out.length = carrier.length →
    frameEnd p el.toNat pl.toNat ≤ carrier.length → payload.length = pl.toNat →
    (∀ k, k < p.markerLen.val → byteAt out (fieldStart p el.toNat (.marker k)) = byteOf p.marker k) ∧
    wordAt out (fieldStart p el.toNat .extLen) = el ∧
    (∀ k, k < el.toNat → byteAt out (fieldStart p el.toNat (.ext k)) = byteOf ext k) ∧
    wordAt out (fieldStart p el.toNat .payloadLen) = pl ∧
    ∀ k, k < pl.toNat → payload[k]? = some (byteAt out (fieldStart p el.toNat (.payload k)))

/-- 70_reset_and_hazards.md rule R277, which the spec marks as its own inference from R182 to R192, for ENCODE: over a carrier of `N` bytes whose header passes its checks and which holds
the frame, a served session ends without error after exactly `2N + 1 + PL` transactions, with the stego image delivered. -/
def Obligations.EncodeRunCompletes : Prop :=
  ∀ (s t0 : State) (carrier payload : List Byte),
    s.rst = false → exec .encode s = .next t0 → s.extLen.toNat ≤ s.params.extMax.val →
    s.payloadLen.toNat ≤ s.params.payloadMax.toNat → payload.length = s.payloadLen.toNat →
    signatureOk (headerOf carrier) = true →
    requiredBits s.params.markerLen.val s.extLen.toNat s.payloadLen.toNat ≤
      imageCapacityBytes (headerWidth (headerOf carrier)) (headerHeight (headerOf carrier)) →
    frameEnd s.params s.extLen.toNat s.payloadLen.toNat ≤ carrier.length →
    (∀ m, m < 2 * carrier.length + 1 + payload.length →
      ∃ u, serve carrier payload m t0 = .next u ∧ u.status.busy = true) ∧
    ∃ t, serve carrier payload (2 * carrier.length + 1 + payload.length) t0 = .next t ∧
      t.status = { PrimitiveStatus .none true with phase := .done } ∧ t.cin = carrier ∧ t.sin = payload ∧
      t.cout.length = carrier.length ∧
      IsStego s.params s.extLen s.ext s.payloadLen payload carrier t.cout

/-- R277, which the spec marks as its own inference from R211 to R222, for DECODE: over a carrier that holds a frame, its header passing the checks ENCODE made, a served session ends
without error after exactly `F_END + PL` transactions, whatever `MCHK` is, with the frame's contents. -/
def Obligations.DecodeRunCompletes : Prop :=
  ∀ (s t0 : State) (el ext pl : Word) (payload carrier : List Byte),
    s.rst = false → exec .decode s = .next t0 → el.toNat ≤ s.params.extMax.val →
    pl.toNat ≤ s.params.payloadMax.toNat → payload.length = pl.toNat → signatureOk (headerOf carrier) = true →
    requiredBits s.params.markerLen.val el.toNat pl.toNat ≤
      imageCapacityBytes (headerWidth (headerOf carrier)) (headerHeight (headerOf carrier)) →
    frameEnd s.params el.toNat pl.toNat ≤ carrier.length →
    (∀ k v, frameBit s.params el ext pl payload k = some v → (carrier[k]?).map lsb = some v) →
    (∀ m, m < frameEnd s.params el.toNat pl.toNat + payload.length →
      ∃ u, serve carrier [] m t0 = .next u ∧ u.status.busy = true) ∧
    ∃ t, serve carrier [] (frameEnd s.params el.toNat pl.toNat + payload.length) t0 = .next t ∧
      t.status = { PrimitiveStatus .none false with phase := .done, mmatch := true, mode := true } ∧
      t.extLen = el ∧ (∀ k, k < 4 → byteOf t.ext k = if k < el.toNat then byteOf ext k else 0) ∧ t.payloadLen = pl ∧
      t.pout = payload ∧ t.width = headerWidth (headerOf carrier) ∧ t.height = headerHeight (headerOf carrier) ∧
      t.cap.toNat = imageCapacityBytes t.width t.height ∧ t.cin = carrier.take (frameEnd s.params el.toNat pl.toNat)

/-- R224, which the spec marks as its own inference from R194, R145 and R217: the round-trip law. When ENCODE completes without
error, DECODE of its output, on any block of the same parameters and whatever its `MCHK` is, completes without error and
gives the inputs back. -/
def Obligations.RoundTripLaw : Prop :=
  ∀ s t d d0 : State, EncodeTrace s → s.session.kind = .encode → step s = .next t → t.status.busy = false →
    t.status.done = true → t.status.err = .none → d.params = t.params → d.rst = false → exec .decode d = .next d0 →
    ∃ u, serve t.cout [] (frameEnd t.params t.extLen.toNat t.payloadLen.toNat + t.payloadLen.toNat) d0 = .next u ∧
      u.status = { PrimitiveStatus .none false with phase := .done, mmatch := true, mode := true } ∧
      u.extLen = t.extLen ∧ (∀ k, k < 4 → byteOf u.ext k = if k < t.extLen.toNat then byteOf t.ext k else 0) ∧
      u.payloadLen = t.payloadLen ∧ u.pout = t.sin ∧ u.width = t.width ∧ u.height = t.height ∧ u.cap = t.cap ∧
      u.cinPos = BitVec.ofNat 64 (frameEnd t.params t.extLen.toNat t.payloadLen.toNat)

/-! ### Invariants and whole-machine rules -/

/-- R27 to R34, R52, R53: every step keeps the status invariant. Its last clause, that a block in reset is neither busy nor
done, is the model's choice: the spec gives the fields at the release of `rst` and not while it is asserted (log entry 7). -/
def Obligations.StatusInvKept : Prop :=
  ∀ s t : State, StatusInv s → step s = .next t → StatusInv t

/-- R48, R49, R50: every step keeps the counters equal to what the ports carried. That all four port records are emptied at
the acceptance of a session command, and so are empty for a port the session does not use, is the model's choice (log
entry 4). -/
def Obligations.CounterInvKept : Prop :=
  ∀ s t : State, CounterInv s → step s = .next t → CounterInv t

/-- R182 to R192: every step keeps the trace invariant of ENCODE. -/
def Obligations.EncodeTraceKept : Prop :=
  ∀ s t : State, EncodeTrace s → step s = .next t → EncodeTrace t

/-- R211 to R221: every step keeps the trace invariant of DECODE. -/
def Obligations.DecodeTraceKept : Prop :=
  ∀ s t : State, DecodeTrace s → step s = .next t → DecodeTrace t

/-- The four invariants hold right after reset (R270, R52). They hold as well in the state in which `rst` has just been
asserted, whatever the block did: that the fields have their reset values from the assertion on is the model's choice (log
entry 7), and so is that the port records are emptied then (log entry 4). -/
def Obligations.InvariantsAtReset : Prop :=
  (StatusInv State.reset ∧ CounterInv State.reset ∧ EncodeTrace State.reset ∧ DecodeTrace State.reset) ∧
  ∀ (s t : State) (rest : List HostEvent), s.rst = false → s.host = .rstAssert :: rest → step s = .next t →
    StatusInv t ∧ CounterInv t ∧ EncodeTrace t ∧ DecodeTrace t

/-- R240, R259: no command is refused and no error stops the block; a step stops exactly on a host move the spec does not
give it, an answer to no pending transaction (log entry 5). -/
def Obligations.StopsOnlyOnUnsolicitedAnswer : Prop :=
  ∀ s : State,
    (∀ r, step s ≠ .refused r) ∧
    ∀ f, step s = .fault f ↔
      f = .unsolicitedAnswer ∧ s.rst = false ∧ ∃ e rest, s.host = e :: rest ∧ answerFits e s.pending = false

/-- 00_scope.md rule R6, 10_state.md rule R20: no step changes a parameter, so the constant registers are constant. -/
def Obligations.ParametersNeverChange : Prop :=
  ∀ s t : State, step s = .next t →
    t.params = s.params ∧ readRegister 0x00 t = readRegister 0x00 s ∧ readRegister 0x3C t = readRegister 0x3C s ∧
    readRegister 0x40 t = readRegister 0x40 s ∧ readRegister 0x44 t = readRegister 0x44 s

/-- R36, R40, R25, 20_memory.md rule R89: a session step neither reads nor writes `VALUE`, the window, `CMD`, `CTRL` or
`WIGN`: with other contents there it does the same. -/
def Obligations.SessionIgnoresHostRegisters : Prop :=
  ∀ (s t : State) (e : HostEvent) (rest : List HostEvent) (v c : Word) (w : Vector Byte 32) (i m g : Bool),
    s.rst = false → s.host = e :: rest → isAnswer e = true → step s = .next t →
    step { s with value := v, cmd := c, cw := w, ie := i, mchk := m, status := { s.status with wign := g } } =
      .next { t with value := v, cmd := c, cw := w, ie := i, mchk := m, status := { t.status with wign := g } }

/-- 40_command.md rule R126: a running session ends only by its own completion, in the step of a stream answer, or by reset;
no bus transaction touches it. -/
def Obligations.SessionEndsOnlyByItself : Prop :=
  (∀ s t : State, step s = .next t → s.status.busy = true → t.status.busy = false →
    ∃ e rest, s.host = e :: rest ∧ (e = .rstAssert ∨ (isAnswer e = true ∧ t.status.done = true))) ∧
  ∀ (s t : State) (e : HostEvent) (rest : List HostEvent), step s = .next t → s.status.busy = true →
    s.host = e :: rest → isAnswer e = false → e ≠ .rstAssert →
    t.session = s.session ∧ t.status.busy = true ∧ SamePorts s t ∧ t.cinPos = s.cinPos ∧ t.sinPos = s.sinPos ∧
      t.outPos = s.outPos

/-- 70_reset_and_hazards.md rule R270: in reset no move but the release does anything, no bus transaction is answered, and
after assertion and release every register holds its reset value, no session runs and `irq` is 0. -/
def Obligations.ResetSequence : Prop :=
  (∀ (s : State) (e : HostEvent) (rest : List HostEvent), s.rst = true → s.host = e :: rest → e ≠ .rstRelease →
    step s = .next { s with host := rest }) ∧
  ∀ (s : State) (rest : List HostEvent), s.rst = false → s.host = .rstAssert :: .rstRelease :: rest →
    ∃ t u : State, step s = .next t ∧ step t = .next u ∧ u.rst = false ∧ u.host = rest ∧
      u.params = s.params ∧ u.session.kind = .none ∧ u.pending = none ∧ u.irq = false ∧
      readRegister 0x04 u = 0x00000004 ∧
      (∀ off ∈ ([0x00, 0x3C, 0x40, 0x44] : List (BitVec 8)), readRegister off u = readRegister off s) ∧
      ∀ off : BitVec 8, off.toNat % 4 = 0 → off ∉ ([0x00, 0x04, 0x3C, 0x40, 0x44] : List (BitVec 8)) →
        readRegister off u = 0

/-- R21, its reset column at `State.reset`, with the two constants the default parameters fix; the default marker bytes are
PRESUMED (log entry 2) and not stated. -/
def Obligations.ResetRegisters : Prop :=
  readRegister 0x00 State.reset = 0x4C534201 ∧ readRegister 0x04 State.reset = 0x00000004 ∧
  readRegister 0x40 State.reset = 0x00000402 ∧ readRegister 0x44 State.reset = 0xFFFFFFFF ∧
  (∀ off : BitVec 8, off.toNat % 4 = 0 → off ∉ ([0x00, 0x04, 0x3C, 0x40, 0x44] : List (BitVec 8)) →
    readRegister off State.reset = 0) ∧
  State.reset.session.kind = .none ∧ State.reset.pending = none ∧ State.reset.irq = false

/-- 60_exceptions.md rule R258, 20_memory.md rule R79: with no move of the host the block keeps everything, idle or waiting. -/
def Obligations.NoMoveKeepsEverything : Prop :=
  ∀ s : State, s.host = [] → step s = .next s

/-- The model's choice (log entries 7 and 9), beside R270, which says only that no bus transaction is answered while `rst` is
asserted: the assertion of `rst` leaves the record of the last bus answer none, and it stays none until the release and after
it. -/
def Obligations.ResetClearsBusRecord : Prop :=
  (∀ (s t : State) (rest : List HostEvent), s.rst = false → s.host = .rstAssert :: rest → step s = .next t →
    t.bus = none ∧ t.rst = true) ∧
  ∀ s t : State, s.rst = true → s.bus = none → step s = .next t → t.bus = none
end

