-- ==== Sys2Proof/Laws/BitPacker.lean ====
section
/-! SUPPORT. The small lemmas of the operand forms: bit 0 of a carrier byte, packing and unpacking of a group, byte lanes
of a register, and the carrier window. -/

namespace Sys2Proof.Machine

/-- The replaced bit is what was put there. -/
@[simp] theorem lsb_setLsb (b : Byte) (v : Bool) : lsb (setLsb b v) = v := by
  cases v <;> revert b <;> decide

/-- Bits 7:1 are kept. -/
@[simp] theorem setLsb_high (b : Byte) (v : Bool) : (setLsb b v).extractLsb' 1 7 = b.extractLsb' 1 7 := by
  cases v <;> revert b <;> decide

/-- Putting back the bit a byte has changes nothing. -/
@[simp] theorem setLsb_self (b : Byte) : setLsb b (lsb b) = b := by
  revert b; decide

/-- Two arrays are equal if their bytes are. -/
theorem vector_ext_get {n : Nat} {c d : Vector Byte n} (h : ∀ k : Fin n, c.get k = d.get k) : c = d := by
  apply Vector.ext
  intro i hi
  simpa [Vector.get_eq_getElem] using h ⟨i, hi⟩

/-- Byte `k` of a packed group carries bit `n-1-k` of the value. -/
@[simp] theorem encodeBits_get {n : Nat} (v : BitVec n) (c : Vector Byte n) (k : Fin n) :
    (encodeBits v c).get k = setLsb (c.get k) (v.getMsbD k.val) := by
  simp [encodeBits, Vector.get_eq_getElem]

/-- Bit `n-1-k` of an unpacked group is bit 0 of byte `k`. -/
theorem decodeBits_getMsbD {n : Nat} (c : Vector Byte n) (k : Fin n) :
    (decodeBits c).getMsbD k.val = lsb (c.get k) := by
  simp [decodeBits, Vector.get_eq_getElem]

/-- A group decodes to the value whose bits are the hidden bits of its bytes. -/
theorem decodeBits_eq_iff {n : Nat} (c : Vector Byte n) (v : BitVec n) :
    decodeBits c = v ↔ ∀ k : Fin n, lsb (c.get k) = v.getMsbD k.val := by
  constructor
  · rintro rfl k
    exact (decodeBits_getMsbD c k).symm
  · intro h
    apply BitVec.eq_of_getMsbD_eq
    intro i hi
    rw [← h ⟨i, hi⟩]
    exact decodeBits_getMsbD c ⟨i, hi⟩

@[simp] theorem first8_get (c : Vector Byte 32) (k : Fin 8) : (first8 c).get k = c.get (k.castLE (by omega)) := by
  simp [first8, Vector.get_eq_getElem]

theorem putFirst8_get (c : Vector Byte 32) (d : Vector Byte 8) (k : Fin 32) :
    (putFirst8 c d).get k = if h : k.val < 8 then d.get ⟨k.val, h⟩ else c.get k := by
  simp [putFirst8, Vector.get_eq_getElem]

@[simp] theorem first8_putFirst8 (c : Vector Byte 32) (d : Vector Byte 8) : first8 (putFirst8 c d) = d := by
  apply vector_ext_get
  intro k
  simp [putFirst8_get]

/-- The bits of a register built from four byte lanes. -/
theorem getLsbD_ofBytes (a b c d : Byte) (i : Nat) :
    (ofBytes a b c d).getLsbD i =
      if i < 8 then a.getLsbD i else if i < 16 then b.getLsbD (i - 8) else if i < 24 then c.getLsbD (i - 16)
      else d.getLsbD (i - 24) := by
  change BitVec.getLsbD (w := 8 + 8 + 8 + 8) (d ++ c ++ b ++ a) i = _
  simp only [BitVec.getLsbD_append]
  split_ifs <;> first | rfl | omega

/-- The byte lanes of a register built from four bytes. -/
theorem byteOf_ofBytes (a b c d : Byte) (k : Nat) (hk : k < 4) :
    byteOf (ofBytes a b c d) k = if k = 0 then a else if k = 1 then b else if k = 2 then c else d := by
  apply BitVec.eq_of_getLsbD_eq
  intro i hi
  simp only [byteOf, BitVec.getLsbD_extractLsb', hi, decide_true, Bool.true_and, getLsbD_ofBytes]
  obtain rfl | rfl | rfl | rfl : k = 0 ∨ k = 1 ∨ k = 2 ∨ k = 3 := by omega
  all_goals simp [hi]
  all_goals split_ifs <;> first | rfl | omega

/-- A register is built from its own byte lanes. -/
@[simp] theorem ofBytes_byteOf (w : Word) : ofBytes (byteOf w 0) (byteOf w 1) (byteOf w 2) (byteOf w 3) = w := by
  apply BitVec.eq_of_getLsbD_eq
  intro i hi
  simp only [getLsbD_ofBytes, byteOf, BitVec.getLsbD_extractLsb']
  split_ifs with h1 h2 h3
  · simp [h1]
  · simp [show i - 8 < 8 by omega, show 8 + (i - 8) = i by omega]
  · simp [show i - 16 < 8 by omega, show 16 + (i - 16) = i by omega]
  · simp [show i - 24 < 8 by omega, show 24 + (i - 24) = i by omega]

/-- A replaced byte lane, and the others. -/
theorem byteOf_setByte (w : Word) (j k : Nat) (b : Byte) (hj : j < 4) :
    byteOf (setByte w k b) j = if j = k then b else byteOf w j := by
  rw [setByte, byteOf_ofBytes _ _ _ _ _ hj]
  obtain rfl | rfl | rfl | rfl : j = 0 ∨ j = 1 ∨ j = 2 ∨ j = 3 := by omega
  all_goals simp [eq_comm]

/-- Registers with the same byte lanes are the same. -/
theorem word_ext_byteOf {v w : Word} (h : ∀ j, j < 4 → byteOf v j = byteOf w j) : v = w := by
  rw [← ofBytes_byteOf v, ← ofBytes_byteOf w, h 0 (by omega), h 1 (by omega), h 2 (by omega), h 3 (by omega)]

theorem cwinWrite_get (c : Vector Byte 32) (j : Fin 8) (v : Word) (k : Fin 32) :
    (cwinWrite c j v).get k = if k.val / 4 = j.val then byteOf v (k.val % 4) else c.get k := by
  simp [cwinWrite, Vector.get_eq_getElem]

/-- A written window register reads back, and the others are unchanged. -/
theorem cwinRead_cwinWrite (c : Vector Byte 32) (i j : Fin 8) (v : Word) :
    cwinRead (cwinWrite c j v) i = if i = j then v else cwinRead c i := by
  simp only [cwinRead, cwinWrite_get, Fin.ext_iff]
  have d0 : 4 * i.val / 4 = i.val := by omega
  have d1 : (4 * i.val + 1) / 4 = i.val := by omega
  have d2 : (4 * i.val + 2) / 4 = i.val := by omega
  have d3 : (4 * i.val + 3) / 4 = i.val := by omega
  have m0 : 4 * i.val % 4 = 0 := by omega
  have m1 : (4 * i.val + 1) % 4 = 1 := by omega
  have m2 : (4 * i.val + 2) % 4 = 2 := by omega
  have m3 : (4 * i.val + 3) % 4 = 3 := by omega
  simp only [d0, d1, d2, d3, m0, m1, m2, m3]
  split_ifs
  · exact ofBytes_byteOf v
  · rfl

end Sys2Proof.Machine
end

