-- ==== Sys2Proof/Laws/Flags.lean ====
section
/-! SUPPORT. The small lemmas of the flag computations: the exact capacity arithmetic fits its registers, and each check
says what its rule says. -/

namespace Sys2Proof.Machine

/-- R162: the check passes exactly when `cap >= req`. -/
@[simp] theorem hasCapacity_iff (cap req : Nat) : hasCapacity cap req = true ↔ req ≤ cap := by
  simp [hasCapacity]

/-- R160: the capacity is below 2^66. -/
theorem imageCapacityBytes_lt (w h : Word) : imageCapacityBytes w h < 2 ^ 66 := by
  have hw := w.isLt
  have hh := h.isLt
  have : w.toNat * h.toNat ≤ (2 ^ 32 - 1) * (2 ^ 32 - 1) := Nat.mul_le_mul (by omega) (by omega)
  unfold imageCapacityBytes
  omega

/-- R161: the required bits are below 2^37. -/
theorem requiredBits_lt (m : Fin 5) (el pl : Word) : requiredBits m.val el.toNat pl.toNat < 2 ^ 37 := by
  have he := el.isLt
  have hp := pl.isLt
  have hm := m.isLt
  unfold requiredBits
  omega

/-- The capacity register holds the exact capacity. -/
@[simp] theorem toNat_capacity (w h : Word) :
    (BitVec.ofNat 66 (imageCapacityBytes w h)).toNat = imageCapacityBytes w h := by
  rw [BitVec.toNat_ofNat, Nat.mod_eq_of_lt (imageCapacityBytes_lt w h)]

/-- The required-bits register holds the exact count. -/
@[simp] theorem toNat_required (m : Fin 5) (el pl : Word) :
    (BitVec.ofNat 37 (requiredBits m.val el.toNat pl.toNat)).toNat = requiredBits m.val el.toNat pl.toNat := by
  rw [BitVec.toNat_ofNat, Nat.mod_eq_of_lt (requiredBits_lt m el pl)]

/-- R217, R219: a length passes when it is within both bounds. -/
theorem lengthOk_iff (len max : Nat) (rem : Int) :
    lengthOk len max rem = true ↔ len ≤ max ∧ 8 * (len : Int) ≤ rem := by
  simp [lengthOk]

/-- R215: the markers match when every decoded byte is its parameter byte. -/
theorem markerMatches_iff (p : Params) (d : Word) :
    markerMatches p d = true ↔ ∀ k, k < p.markerLen.val → byteOf d k = byteOf p.marker k := by
  simp [markerMatches]

end Sys2Proof.Machine
end

