-- ==== Sys2Proof/Laws/State.lean ====
section
/-! SUPPORT. One lemma per field per named update of the state (Machine/Ops.lean), each true by rfl, so that no later proof
unfolds a record update. -/

namespace Sys2Proof.Machine

variable (s : State)

/-! ### `accept` -/

@[simp] theorem accept_params (d : Bool) : (accept d s).params = s.params := rfl
@[simp] theorem accept_ie (d : Bool) : (accept d s).ie = s.ie := rfl
@[simp] theorem accept_mchk (d : Bool) : (accept d s).mchk = s.mchk := rfl
@[simp] theorem accept_cmd (d : Bool) : (accept d s).cmd = s.cmd := rfl
@[simp] theorem accept_status_busy (d : Bool) : (accept d s).status.busy = s.status.busy := rfl
@[simp] theorem accept_status_done (d : Bool) : (accept d s).status.done = false := rfl
@[simp] theorem accept_status_capOk (d : Bool) : (accept d s).status.capOk = false := rfl
@[simp] theorem accept_status_wign (d : Bool) : (accept d s).status.wign = false := rfl
@[simp] theorem accept_status_mmatch (d : Bool) : (accept d s).status.mmatch = false := rfl
@[simp] theorem accept_status_err (d : Bool) : (accept d s).status.err = .none := rfl
@[simp] theorem accept_status_phase (d : Bool) : (accept d s).status.phase = .idle := rfl
@[simp] theorem accept_status_mode (d : Bool) : (accept d s).status.mode = d := rfl
@[simp] theorem accept_value (d : Bool) : (accept d s).value = s.value := rfl
@[simp] theorem accept_width (d : Bool) : (accept d s).width = s.width := rfl
@[simp] theorem accept_height (d : Bool) : (accept d s).height = s.height := rfl
@[simp] theorem accept_extLen (d : Bool) : (accept d s).extLen = s.extLen := rfl
@[simp] theorem accept_ext (d : Bool) : (accept d s).ext = s.ext := rfl
@[simp] theorem accept_payloadLen (d : Bool) : (accept d s).payloadLen = s.payloadLen := rfl
@[simp] theorem accept_cap (d : Bool) : (accept d s).cap = s.cap := rfl
@[simp] theorem accept_req (d : Bool) : (accept d s).req = s.req := rfl
@[simp] theorem accept_cinPos (d : Bool) : (accept d s).cinPos = s.cinPos := rfl
@[simp] theorem accept_outPos (d : Bool) : (accept d s).outPos = s.outPos := rfl
@[simp] theorem accept_sinPos (d : Bool) : (accept d s).sinPos = s.sinPos := rfl
@[simp] theorem accept_dmarker (d : Bool) : (accept d s).dmarker = s.dmarker := rfl
@[simp] theorem accept_cw (d : Bool) : (accept d s).cw = s.cw := rfl
@[simp] theorem accept_session (d : Bool) : (accept d s).session = s.session := rfl
@[simp] theorem accept_cin (d : Bool) : (accept d s).cin = s.cin := rfl
@[simp] theorem accept_sin (d : Bool) : (accept d s).sin = s.sin := rfl
@[simp] theorem accept_cout (d : Bool) : (accept d s).cout = s.cout := rfl
@[simp] theorem accept_pout (d : Bool) : (accept d s).pout = s.pout := rfl
@[simp] theorem accept_rst (d : Bool) : (accept d s).rst = s.rst := rfl
@[simp] theorem accept_bus (d : Bool) : (accept d s).bus = s.bus := rfl
@[simp] theorem accept_host (d : Bool) : (accept d s).host = s.host := rfl

/-! ### `complete` -/

@[simp] theorem complete_params (e : ErrKind) : (complete e s).params = s.params := rfl
@[simp] theorem complete_ie (e : ErrKind) : (complete e s).ie = s.ie := rfl
@[simp] theorem complete_mchk (e : ErrKind) : (complete e s).mchk = s.mchk := rfl
@[simp] theorem complete_cmd (e : ErrKind) : (complete e s).cmd = s.cmd := rfl
@[simp] theorem complete_status_busy (e : ErrKind) : (complete e s).status.busy = false := rfl
@[simp] theorem complete_status_done (e : ErrKind) : (complete e s).status.done = true := rfl
@[simp] theorem complete_status_capOk (e : ErrKind) : (complete e s).status.capOk = s.status.capOk := rfl
@[simp] theorem complete_status_wign (e : ErrKind) : (complete e s).status.wign = s.status.wign := rfl
@[simp] theorem complete_status_mmatch (e : ErrKind) : (complete e s).status.mmatch = s.status.mmatch := rfl
@[simp] theorem complete_status_err (e : ErrKind) : (complete e s).status.err = e := rfl
@[simp] theorem complete_status_phase (e : ErrKind) : (complete e s).status.phase = s.status.phase := rfl
@[simp] theorem complete_status_mode (e : ErrKind) : (complete e s).status.mode = s.status.mode := rfl
@[simp] theorem complete_value (e : ErrKind) : (complete e s).value = s.value := rfl
@[simp] theorem complete_width (e : ErrKind) : (complete e s).width = s.width := rfl
@[simp] theorem complete_height (e : ErrKind) : (complete e s).height = s.height := rfl
@[simp] theorem complete_extLen (e : ErrKind) : (complete e s).extLen = s.extLen := rfl
@[simp] theorem complete_ext (e : ErrKind) : (complete e s).ext = s.ext := rfl
@[simp] theorem complete_payloadLen (e : ErrKind) : (complete e s).payloadLen = s.payloadLen := rfl
@[simp] theorem complete_cap (e : ErrKind) : (complete e s).cap = s.cap := rfl
@[simp] theorem complete_req (e : ErrKind) : (complete e s).req = s.req := rfl
@[simp] theorem complete_cinPos (e : ErrKind) : (complete e s).cinPos = s.cinPos := rfl
@[simp] theorem complete_outPos (e : ErrKind) : (complete e s).outPos = s.outPos := rfl
@[simp] theorem complete_sinPos (e : ErrKind) : (complete e s).sinPos = s.sinPos := rfl
@[simp] theorem complete_dmarker (e : ErrKind) : (complete e s).dmarker = s.dmarker := rfl
@[simp] theorem complete_cw (e : ErrKind) : (complete e s).cw = s.cw := rfl
@[simp] theorem complete_session (e : ErrKind) : (complete e s).session = Session.idle := rfl
@[simp] theorem complete_cin (e : ErrKind) : (complete e s).cin = s.cin := rfl
@[simp] theorem complete_sin (e : ErrKind) : (complete e s).sin = s.sin := rfl
@[simp] theorem complete_cout (e : ErrKind) : (complete e s).cout = s.cout := rfl
@[simp] theorem complete_pout (e : ErrKind) : (complete e s).pout = s.pout := rfl
@[simp] theorem complete_rst (e : ErrKind) : (complete e s).rst = s.rst := rfl
@[simp] theorem complete_bus (e : ErrKind) : (complete e s).bus = s.bus := rfl
@[simp] theorem complete_host (e : ErrKind) : (complete e s).host = s.host := rfl

/-! ### `raise` -/

@[simp] theorem raise_params (e : ErrKind) : (raise e s).params = s.params := rfl
@[simp] theorem raise_ie (e : ErrKind) : (raise e s).ie = s.ie := rfl
@[simp] theorem raise_mchk (e : ErrKind) : (raise e s).mchk = s.mchk := rfl
@[simp] theorem raise_cmd (e : ErrKind) : (raise e s).cmd = s.cmd := rfl
@[simp] theorem raise_status_busy (e : ErrKind) : (raise e s).status.busy = false := rfl
@[simp] theorem raise_status_done (e : ErrKind) : (raise e s).status.done = true := rfl
@[simp] theorem raise_status_capOk (e : ErrKind) : (raise e s).status.capOk = s.status.capOk := rfl
@[simp] theorem raise_status_wign (e : ErrKind) : (raise e s).status.wign = s.status.wign := rfl
@[simp] theorem raise_status_mmatch (e : ErrKind) : (raise e s).status.mmatch = s.status.mmatch := rfl
@[simp] theorem raise_status_err (e : ErrKind) : (raise e s).status.err = e := rfl
@[simp] theorem raise_status_phase (e : ErrKind) : (raise e s).status.phase = s.status.phase := rfl
@[simp] theorem raise_status_mode (e : ErrKind) : (raise e s).status.mode = s.status.mode := rfl
@[simp] theorem raise_value (e : ErrKind) : (raise e s).value = s.value := rfl
@[simp] theorem raise_width (e : ErrKind) : (raise e s).width = s.width := rfl
@[simp] theorem raise_height (e : ErrKind) : (raise e s).height = s.height := rfl
@[simp] theorem raise_extLen (e : ErrKind) : (raise e s).extLen = s.extLen := rfl
@[simp] theorem raise_ext (e : ErrKind) : (raise e s).ext = s.ext := rfl
@[simp] theorem raise_payloadLen (e : ErrKind) : (raise e s).payloadLen = s.payloadLen := rfl
@[simp] theorem raise_cap (e : ErrKind) : (raise e s).cap = s.cap := rfl
@[simp] theorem raise_req (e : ErrKind) : (raise e s).req = s.req := rfl
@[simp] theorem raise_cinPos (e : ErrKind) : (raise e s).cinPos = s.cinPos := rfl
@[simp] theorem raise_outPos (e : ErrKind) : (raise e s).outPos = s.outPos := rfl
@[simp] theorem raise_sinPos (e : ErrKind) : (raise e s).sinPos = s.sinPos := rfl
@[simp] theorem raise_dmarker (e : ErrKind) : (raise e s).dmarker = s.dmarker := rfl
@[simp] theorem raise_cw (e : ErrKind) : (raise e s).cw = s.cw := rfl
@[simp] theorem raise_session (e : ErrKind) : (raise e s).session = Session.idle := rfl
@[simp] theorem raise_cin (e : ErrKind) : (raise e s).cin = s.cin := rfl
@[simp] theorem raise_sin (e : ErrKind) : (raise e s).sin = s.sin := rfl
@[simp] theorem raise_cout (e : ErrKind) : (raise e s).cout = s.cout := rfl
@[simp] theorem raise_pout (e : ErrKind) : (raise e s).pout = s.pout := rfl
@[simp] theorem raise_rst (e : ErrKind) : (raise e s).rst = s.rst := rfl
@[simp] theorem raise_bus (e : ErrKind) : (raise e s).bus = s.bus := rfl
@[simp] theorem raise_host (e : ErrKind) : (raise e s).host = s.host := rfl

/-! ### `clearCounters` -/

@[simp] theorem clearCounters_params : (clearCounters s).params = s.params := rfl
@[simp] theorem clearCounters_ie : (clearCounters s).ie = s.ie := rfl
@[simp] theorem clearCounters_mchk : (clearCounters s).mchk = s.mchk := rfl
@[simp] theorem clearCounters_cmd : (clearCounters s).cmd = s.cmd := rfl
@[simp] theorem clearCounters_status : (clearCounters s).status = s.status := rfl
@[simp] theorem clearCounters_value : (clearCounters s).value = s.value := rfl
@[simp] theorem clearCounters_width : (clearCounters s).width = s.width := rfl
@[simp] theorem clearCounters_height : (clearCounters s).height = s.height := rfl
@[simp] theorem clearCounters_extLen : (clearCounters s).extLen = s.extLen := rfl
@[simp] theorem clearCounters_ext : (clearCounters s).ext = s.ext := rfl
@[simp] theorem clearCounters_payloadLen : (clearCounters s).payloadLen = s.payloadLen := rfl
@[simp] theorem clearCounters_cap : (clearCounters s).cap = 0 := rfl
@[simp] theorem clearCounters_req : (clearCounters s).req = 0 := rfl
@[simp] theorem clearCounters_cinPos : (clearCounters s).cinPos = 0 := rfl
@[simp] theorem clearCounters_outPos : (clearCounters s).outPos = 0 := rfl
@[simp] theorem clearCounters_sinPos : (clearCounters s).sinPos = 0 := rfl
@[simp] theorem clearCounters_dmarker : (clearCounters s).dmarker = s.dmarker := rfl
@[simp] theorem clearCounters_cw : (clearCounters s).cw = s.cw := rfl
@[simp] theorem clearCounters_session : (clearCounters s).session = s.session := rfl
@[simp] theorem clearCounters_cin : (clearCounters s).cin = [] := rfl
@[simp] theorem clearCounters_sin : (clearCounters s).sin = [] := rfl
@[simp] theorem clearCounters_cout : (clearCounters s).cout = [] := rfl
@[simp] theorem clearCounters_pout : (clearCounters s).pout = [] := rfl
@[simp] theorem clearCounters_rst : (clearCounters s).rst = s.rst := rfl
@[simp] theorem clearCounters_bus : (clearCounters s).bus = s.bus := rfl
@[simp] theorem clearCounters_host : (clearCounters s).host = s.host := rfl

/-! ### `startSession` -/

@[simp] theorem startSession_params (x : Session) : (startSession x s).params = s.params := rfl
@[simp] theorem startSession_ie (x : Session) : (startSession x s).ie = s.ie := rfl
@[simp] theorem startSession_mchk (x : Session) : (startSession x s).mchk = s.mchk := rfl
@[simp] theorem startSession_cmd (x : Session) : (startSession x s).cmd = s.cmd := rfl
@[simp] theorem startSession_status_busy (x : Session) : (startSession x s).status.busy = true := rfl
@[simp] theorem startSession_status_done (x : Session) : (startSession x s).status.done = s.status.done := rfl
@[simp] theorem startSession_status_capOk (x : Session) : (startSession x s).status.capOk = s.status.capOk := rfl
@[simp] theorem startSession_status_wign (x : Session) : (startSession x s).status.wign = s.status.wign := rfl
@[simp] theorem startSession_status_mmatch (x : Session) : (startSession x s).status.mmatch = s.status.mmatch := rfl
@[simp] theorem startSession_status_err (x : Session) : (startSession x s).status.err = s.status.err := rfl
@[simp] theorem startSession_status_phase (x : Session) : (startSession x s).status.phase = s.status.phase := rfl
@[simp] theorem startSession_status_mode (x : Session) : (startSession x s).status.mode = s.status.mode := rfl
@[simp] theorem startSession_value (x : Session) : (startSession x s).value = s.value := rfl
@[simp] theorem startSession_width (x : Session) : (startSession x s).width = s.width := rfl
@[simp] theorem startSession_height (x : Session) : (startSession x s).height = s.height := rfl
@[simp] theorem startSession_extLen (x : Session) : (startSession x s).extLen = s.extLen := rfl
@[simp] theorem startSession_ext (x : Session) : (startSession x s).ext = s.ext := rfl
@[simp] theorem startSession_payloadLen (x : Session) : (startSession x s).payloadLen = s.payloadLen := rfl
@[simp] theorem startSession_cap (x : Session) : (startSession x s).cap = s.cap := rfl
@[simp] theorem startSession_req (x : Session) : (startSession x s).req = s.req := rfl
@[simp] theorem startSession_cinPos (x : Session) : (startSession x s).cinPos = s.cinPos := rfl
@[simp] theorem startSession_outPos (x : Session) : (startSession x s).outPos = s.outPos := rfl
@[simp] theorem startSession_sinPos (x : Session) : (startSession x s).sinPos = s.sinPos := rfl
@[simp] theorem startSession_dmarker (x : Session) : (startSession x s).dmarker = s.dmarker := rfl
@[simp] theorem startSession_cw (x : Session) : (startSession x s).cw = s.cw := rfl
@[simp] theorem startSession_session (x : Session) : (startSession x s).session = x := rfl
@[simp] theorem startSession_cin (x : Session) : (startSession x s).cin = s.cin := rfl
@[simp] theorem startSession_sin (x : Session) : (startSession x s).sin = s.sin := rfl
@[simp] theorem startSession_cout (x : Session) : (startSession x s).cout = s.cout := rfl
@[simp] theorem startSession_pout (x : Session) : (startSession x s).pout = s.pout := rfl
@[simp] theorem startSession_rst (x : Session) : (startSession x s).rst = s.rst := rfl
@[simp] theorem startSession_bus (x : Session) : (startSession x s).bus = s.bus := rfl
@[simp] theorem startSession_host (x : Session) : (startSession x s).host = s.host := rfl

/-! ### `await` -/

@[simp] theorem await_params (c : Cont) : (await c s).params = s.params := rfl
@[simp] theorem await_ie (c : Cont) : (await c s).ie = s.ie := rfl
@[simp] theorem await_mchk (c : Cont) : (await c s).mchk = s.mchk := rfl
@[simp] theorem await_cmd (c : Cont) : (await c s).cmd = s.cmd := rfl
@[simp] theorem await_status (c : Cont) : (await c s).status = s.status := rfl
@[simp] theorem await_value (c : Cont) : (await c s).value = s.value := rfl
@[simp] theorem await_width (c : Cont) : (await c s).width = s.width := rfl
@[simp] theorem await_height (c : Cont) : (await c s).height = s.height := rfl
@[simp] theorem await_extLen (c : Cont) : (await c s).extLen = s.extLen := rfl
@[simp] theorem await_ext (c : Cont) : (await c s).ext = s.ext := rfl
@[simp] theorem await_payloadLen (c : Cont) : (await c s).payloadLen = s.payloadLen := rfl
@[simp] theorem await_cap (c : Cont) : (await c s).cap = s.cap := rfl
@[simp] theorem await_req (c : Cont) : (await c s).req = s.req := rfl
@[simp] theorem await_cinPos (c : Cont) : (await c s).cinPos = s.cinPos := rfl
@[simp] theorem await_outPos (c : Cont) : (await c s).outPos = s.outPos := rfl
@[simp] theorem await_sinPos (c : Cont) : (await c s).sinPos = s.sinPos := rfl
@[simp] theorem await_dmarker (c : Cont) : (await c s).dmarker = s.dmarker := rfl
@[simp] theorem await_cw (c : Cont) : (await c s).cw = s.cw := rfl
@[simp] theorem await_session_kind (c : Cont) : (await c s).session.kind = s.session.kind := rfl
@[simp] theorem await_session_cont (c : Cont) : (await c s).session.cont = c := rfl
@[simp] theorem await_session_hdr (c : Cont) : (await c s).session.hdr = s.session.hdr := rfl
@[simp] theorem await_session_group (c : Cont) : (await c s).session.group = s.session.group := rfl
@[simp] theorem await_session_mchkL (c : Cont) : (await c s).session.mchkL = s.session.mchkL := rfl
@[simp] theorem await_session_el (c : Cont) : (await c s).session.el = s.session.el := rfl
@[simp] theorem await_session_ext (c : Cont) : (await c s).session.ext = s.session.ext := rfl
@[simp] theorem await_session_pl (c : Cont) : (await c s).session.pl = s.session.pl := rfl
@[simp] theorem await_session_sinByte (c : Cont) : (await c s).session.sinByte = s.session.sinByte := rfl
@[simp] theorem await_cin (c : Cont) : (await c s).cin = s.cin := rfl
@[simp] theorem await_sin (c : Cont) : (await c s).sin = s.sin := rfl
@[simp] theorem await_cout (c : Cont) : (await c s).cout = s.cout := rfl
@[simp] theorem await_pout (c : Cont) : (await c s).pout = s.pout := rfl
@[simp] theorem await_rst (c : Cont) : (await c s).rst = s.rst := rfl
@[simp] theorem await_bus (c : Cont) : (await c s).bus = s.bus := rfl
@[simp] theorem await_host (c : Cont) : (await c s).host = s.host := rfl

/-! ### `setPhase` -/

@[simp] theorem setPhase_params (p : Phase) : (setPhase p s).params = s.params := rfl
@[simp] theorem setPhase_ie (p : Phase) : (setPhase p s).ie = s.ie := rfl
@[simp] theorem setPhase_mchk (p : Phase) : (setPhase p s).mchk = s.mchk := rfl
@[simp] theorem setPhase_cmd (p : Phase) : (setPhase p s).cmd = s.cmd := rfl
@[simp] theorem setPhase_status_busy (p : Phase) : (setPhase p s).status.busy = s.status.busy := rfl
@[simp] theorem setPhase_status_done (p : Phase) : (setPhase p s).status.done = s.status.done := rfl
@[simp] theorem setPhase_status_capOk (p : Phase) : (setPhase p s).status.capOk = s.status.capOk := rfl
@[simp] theorem setPhase_status_wign (p : Phase) : (setPhase p s).status.wign = s.status.wign := rfl
@[simp] theorem setPhase_status_mmatch (p : Phase) : (setPhase p s).status.mmatch = s.status.mmatch := rfl
@[simp] theorem setPhase_status_err (p : Phase) : (setPhase p s).status.err = s.status.err := rfl
@[simp] theorem setPhase_status_phase (p : Phase) : (setPhase p s).status.phase = p := rfl
@[simp] theorem setPhase_status_mode (p : Phase) : (setPhase p s).status.mode = s.status.mode := rfl
@[simp] theorem setPhase_value (p : Phase) : (setPhase p s).value = s.value := rfl
@[simp] theorem setPhase_width (p : Phase) : (setPhase p s).width = s.width := rfl
@[simp] theorem setPhase_height (p : Phase) : (setPhase p s).height = s.height := rfl
@[simp] theorem setPhase_extLen (p : Phase) : (setPhase p s).extLen = s.extLen := rfl
@[simp] theorem setPhase_ext (p : Phase) : (setPhase p s).ext = s.ext := rfl
@[simp] theorem setPhase_payloadLen (p : Phase) : (setPhase p s).payloadLen = s.payloadLen := rfl
@[simp] theorem setPhase_cap (p : Phase) : (setPhase p s).cap = s.cap := rfl
@[simp] theorem setPhase_req (p : Phase) : (setPhase p s).req = s.req := rfl
@[simp] theorem setPhase_cinPos (p : Phase) : (setPhase p s).cinPos = s.cinPos := rfl
@[simp] theorem setPhase_outPos (p : Phase) : (setPhase p s).outPos = s.outPos := rfl
@[simp] theorem setPhase_sinPos (p : Phase) : (setPhase p s).sinPos = s.sinPos := rfl
@[simp] theorem setPhase_dmarker (p : Phase) : (setPhase p s).dmarker = s.dmarker := rfl
@[simp] theorem setPhase_cw (p : Phase) : (setPhase p s).cw = s.cw := rfl
@[simp] theorem setPhase_session (p : Phase) : (setPhase p s).session = s.session := rfl
@[simp] theorem setPhase_cin (p : Phase) : (setPhase p s).cin = s.cin := rfl
@[simp] theorem setPhase_sin (p : Phase) : (setPhase p s).sin = s.sin := rfl
@[simp] theorem setPhase_cout (p : Phase) : (setPhase p s).cout = s.cout := rfl
@[simp] theorem setPhase_pout (p : Phase) : (setPhase p s).pout = s.pout := rfl
@[simp] theorem setPhase_rst (p : Phase) : (setPhase p s).rst = s.rst := rfl
@[simp] theorem setPhase_bus (p : Phase) : (setPhase p s).bus = s.bus := rfl
@[simp] theorem setPhase_host (p : Phase) : (setPhase p s).host = s.host := rfl

/-! ### `cinReceived` -/

@[simp] theorem cinReceived_params (b : Byte) : (cinReceived b s).params = s.params := rfl
@[simp] theorem cinReceived_ie (b : Byte) : (cinReceived b s).ie = s.ie := rfl
@[simp] theorem cinReceived_mchk (b : Byte) : (cinReceived b s).mchk = s.mchk := rfl
@[simp] theorem cinReceived_cmd (b : Byte) : (cinReceived b s).cmd = s.cmd := rfl
@[simp] theorem cinReceived_status (b : Byte) : (cinReceived b s).status = s.status := rfl
@[simp] theorem cinReceived_value (b : Byte) : (cinReceived b s).value = s.value := rfl
@[simp] theorem cinReceived_width (b : Byte) : (cinReceived b s).width = s.width := rfl
@[simp] theorem cinReceived_height (b : Byte) : (cinReceived b s).height = s.height := rfl
@[simp] theorem cinReceived_extLen (b : Byte) : (cinReceived b s).extLen = s.extLen := rfl
@[simp] theorem cinReceived_ext (b : Byte) : (cinReceived b s).ext = s.ext := rfl
@[simp] theorem cinReceived_payloadLen (b : Byte) : (cinReceived b s).payloadLen = s.payloadLen := rfl
@[simp] theorem cinReceived_cap (b : Byte) : (cinReceived b s).cap = s.cap := rfl
@[simp] theorem cinReceived_req (b : Byte) : (cinReceived b s).req = s.req := rfl
@[simp] theorem cinReceived_cinPos (b : Byte) : (cinReceived b s).cinPos = s.cinPos + 1 := rfl
@[simp] theorem cinReceived_outPos (b : Byte) : (cinReceived b s).outPos = s.outPos := rfl
@[simp] theorem cinReceived_sinPos (b : Byte) : (cinReceived b s).sinPos = s.sinPos := rfl
@[simp] theorem cinReceived_dmarker (b : Byte) : (cinReceived b s).dmarker = s.dmarker := rfl
@[simp] theorem cinReceived_cw (b : Byte) : (cinReceived b s).cw = s.cw := rfl
@[simp] theorem cinReceived_session (b : Byte) : (cinReceived b s).session = s.session := rfl
@[simp] theorem cinReceived_cin (b : Byte) : (cinReceived b s).cin = s.cin ++ [b] := rfl
@[simp] theorem cinReceived_sin (b : Byte) : (cinReceived b s).sin = s.sin := rfl
@[simp] theorem cinReceived_cout (b : Byte) : (cinReceived b s).cout = s.cout := rfl
@[simp] theorem cinReceived_pout (b : Byte) : (cinReceived b s).pout = s.pout := rfl
@[simp] theorem cinReceived_rst (b : Byte) : (cinReceived b s).rst = s.rst := rfl
@[simp] theorem cinReceived_bus (b : Byte) : (cinReceived b s).bus = s.bus := rfl
@[simp] theorem cinReceived_host (b : Byte) : (cinReceived b s).host = s.host := rfl

/-! ### `sinReceived` -/

@[simp] theorem sinReceived_params (b : Byte) : (sinReceived b s).params = s.params := rfl
@[simp] theorem sinReceived_ie (b : Byte) : (sinReceived b s).ie = s.ie := rfl
@[simp] theorem sinReceived_mchk (b : Byte) : (sinReceived b s).mchk = s.mchk := rfl
@[simp] theorem sinReceived_cmd (b : Byte) : (sinReceived b s).cmd = s.cmd := rfl
@[simp] theorem sinReceived_status (b : Byte) : (sinReceived b s).status = s.status := rfl
@[simp] theorem sinReceived_value (b : Byte) : (sinReceived b s).value = s.value := rfl
@[simp] theorem sinReceived_width (b : Byte) : (sinReceived b s).width = s.width := rfl
@[simp] theorem sinReceived_height (b : Byte) : (sinReceived b s).height = s.height := rfl
@[simp] theorem sinReceived_extLen (b : Byte) : (sinReceived b s).extLen = s.extLen := rfl
@[simp] theorem sinReceived_ext (b : Byte) : (sinReceived b s).ext = s.ext := rfl
@[simp] theorem sinReceived_payloadLen (b : Byte) : (sinReceived b s).payloadLen = s.payloadLen := rfl
@[simp] theorem sinReceived_cap (b : Byte) : (sinReceived b s).cap = s.cap := rfl
@[simp] theorem sinReceived_req (b : Byte) : (sinReceived b s).req = s.req := rfl
@[simp] theorem sinReceived_cinPos (b : Byte) : (sinReceived b s).cinPos = s.cinPos := rfl
@[simp] theorem sinReceived_outPos (b : Byte) : (sinReceived b s).outPos = s.outPos := rfl
@[simp] theorem sinReceived_sinPos (b : Byte) : (sinReceived b s).sinPos = s.sinPos + 1 := rfl
@[simp] theorem sinReceived_dmarker (b : Byte) : (sinReceived b s).dmarker = s.dmarker := rfl
@[simp] theorem sinReceived_cw (b : Byte) : (sinReceived b s).cw = s.cw := rfl
@[simp] theorem sinReceived_session (b : Byte) : (sinReceived b s).session = s.session := rfl
@[simp] theorem sinReceived_cin (b : Byte) : (sinReceived b s).cin = s.cin := rfl
@[simp] theorem sinReceived_sin (b : Byte) : (sinReceived b s).sin = s.sin ++ [b] := rfl
@[simp] theorem sinReceived_cout (b : Byte) : (sinReceived b s).cout = s.cout := rfl
@[simp] theorem sinReceived_pout (b : Byte) : (sinReceived b s).pout = s.pout := rfl
@[simp] theorem sinReceived_rst (b : Byte) : (sinReceived b s).rst = s.rst := rfl
@[simp] theorem sinReceived_bus (b : Byte) : (sinReceived b s).bus = s.bus := rfl
@[simp] theorem sinReceived_host (b : Byte) : (sinReceived b s).host = s.host := rfl

/-! ### `coutDelivered` -/

@[simp] theorem coutDelivered_params (b : Byte) : (coutDelivered b s).params = s.params := rfl
@[simp] theorem coutDelivered_ie (b : Byte) : (coutDelivered b s).ie = s.ie := rfl
@[simp] theorem coutDelivered_mchk (b : Byte) : (coutDelivered b s).mchk = s.mchk := rfl
@[simp] theorem coutDelivered_cmd (b : Byte) : (coutDelivered b s).cmd = s.cmd := rfl
@[simp] theorem coutDelivered_status (b : Byte) : (coutDelivered b s).status = s.status := rfl
@[simp] theorem coutDelivered_value (b : Byte) : (coutDelivered b s).value = s.value := rfl
@[simp] theorem coutDelivered_width (b : Byte) : (coutDelivered b s).width = s.width := rfl
@[simp] theorem coutDelivered_height (b : Byte) : (coutDelivered b s).height = s.height := rfl
@[simp] theorem coutDelivered_extLen (b : Byte) : (coutDelivered b s).extLen = s.extLen := rfl
@[simp] theorem coutDelivered_ext (b : Byte) : (coutDelivered b s).ext = s.ext := rfl
@[simp] theorem coutDelivered_payloadLen (b : Byte) : (coutDelivered b s).payloadLen = s.payloadLen := rfl
@[simp] theorem coutDelivered_cap (b : Byte) : (coutDelivered b s).cap = s.cap := rfl
@[simp] theorem coutDelivered_req (b : Byte) : (coutDelivered b s).req = s.req := rfl
@[simp] theorem coutDelivered_cinPos (b : Byte) : (coutDelivered b s).cinPos = s.cinPos := rfl
@[simp] theorem coutDelivered_outPos (b : Byte) : (coutDelivered b s).outPos = s.outPos + 1 := rfl
@[simp] theorem coutDelivered_sinPos (b : Byte) : (coutDelivered b s).sinPos = s.sinPos := rfl
@[simp] theorem coutDelivered_dmarker (b : Byte) : (coutDelivered b s).dmarker = s.dmarker := rfl
@[simp] theorem coutDelivered_cw (b : Byte) : (coutDelivered b s).cw = s.cw := rfl
@[simp] theorem coutDelivered_session (b : Byte) : (coutDelivered b s).session = s.session := rfl
@[simp] theorem coutDelivered_cin (b : Byte) : (coutDelivered b s).cin = s.cin := rfl
@[simp] theorem coutDelivered_sin (b : Byte) : (coutDelivered b s).sin = s.sin := rfl
@[simp] theorem coutDelivered_cout (b : Byte) : (coutDelivered b s).cout = s.cout ++ [b] := rfl
@[simp] theorem coutDelivered_pout (b : Byte) : (coutDelivered b s).pout = s.pout := rfl
@[simp] theorem coutDelivered_rst (b : Byte) : (coutDelivered b s).rst = s.rst := rfl
@[simp] theorem coutDelivered_bus (b : Byte) : (coutDelivered b s).bus = s.bus := rfl
@[simp] theorem coutDelivered_host (b : Byte) : (coutDelivered b s).host = s.host := rfl

/-! ### `poutDelivered` -/

@[simp] theorem poutDelivered_params (b : Byte) : (poutDelivered b s).params = s.params := rfl
@[simp] theorem poutDelivered_ie (b : Byte) : (poutDelivered b s).ie = s.ie := rfl
@[simp] theorem poutDelivered_mchk (b : Byte) : (poutDelivered b s).mchk = s.mchk := rfl
@[simp] theorem poutDelivered_cmd (b : Byte) : (poutDelivered b s).cmd = s.cmd := rfl
@[simp] theorem poutDelivered_status (b : Byte) : (poutDelivered b s).status = s.status := rfl
@[simp] theorem poutDelivered_value (b : Byte) : (poutDelivered b s).value = s.value := rfl
@[simp] theorem poutDelivered_width (b : Byte) : (poutDelivered b s).width = s.width := rfl
@[simp] theorem poutDelivered_height (b : Byte) : (poutDelivered b s).height = s.height := rfl
@[simp] theorem poutDelivered_extLen (b : Byte) : (poutDelivered b s).extLen = s.extLen := rfl
@[simp] theorem poutDelivered_ext (b : Byte) : (poutDelivered b s).ext = s.ext := rfl
@[simp] theorem poutDelivered_payloadLen (b : Byte) : (poutDelivered b s).payloadLen = s.payloadLen := rfl
@[simp] theorem poutDelivered_cap (b : Byte) : (poutDelivered b s).cap = s.cap := rfl
@[simp] theorem poutDelivered_req (b : Byte) : (poutDelivered b s).req = s.req := rfl
@[simp] theorem poutDelivered_cinPos (b : Byte) : (poutDelivered b s).cinPos = s.cinPos := rfl
@[simp] theorem poutDelivered_outPos (b : Byte) : (poutDelivered b s).outPos = s.outPos + 1 := rfl
@[simp] theorem poutDelivered_sinPos (b : Byte) : (poutDelivered b s).sinPos = s.sinPos := rfl
@[simp] theorem poutDelivered_dmarker (b : Byte) : (poutDelivered b s).dmarker = s.dmarker := rfl
@[simp] theorem poutDelivered_cw (b : Byte) : (poutDelivered b s).cw = s.cw := rfl
@[simp] theorem poutDelivered_session (b : Byte) : (poutDelivered b s).session = s.session := rfl
@[simp] theorem poutDelivered_cin (b : Byte) : (poutDelivered b s).cin = s.cin := rfl
@[simp] theorem poutDelivered_sin (b : Byte) : (poutDelivered b s).sin = s.sin := rfl
@[simp] theorem poutDelivered_cout (b : Byte) : (poutDelivered b s).cout = s.cout := rfl
@[simp] theorem poutDelivered_pout (b : Byte) : (poutDelivered b s).pout = s.pout ++ [b] := rfl
@[simp] theorem poutDelivered_rst (b : Byte) : (poutDelivered b s).rst = s.rst := rfl
@[simp] theorem poutDelivered_bus (b : Byte) : (poutDelivered b s).bus = s.bus := rfl
@[simp] theorem poutDelivered_host (b : Byte) : (poutDelivered b s).host = s.host := rfl

/-! ### `storeHeader` -/

@[simp] theorem storeHeader_params (k : Fin 54) (b : Byte) : (storeHeader k b s).params = s.params := rfl
@[simp] theorem storeHeader_ie (k : Fin 54) (b : Byte) : (storeHeader k b s).ie = s.ie := rfl
@[simp] theorem storeHeader_mchk (k : Fin 54) (b : Byte) : (storeHeader k b s).mchk = s.mchk := rfl
@[simp] theorem storeHeader_cmd (k : Fin 54) (b : Byte) : (storeHeader k b s).cmd = s.cmd := rfl
@[simp] theorem storeHeader_status (k : Fin 54) (b : Byte) : (storeHeader k b s).status = s.status := rfl
@[simp] theorem storeHeader_value (k : Fin 54) (b : Byte) : (storeHeader k b s).value = s.value := rfl
@[simp] theorem storeHeader_width (k : Fin 54) (b : Byte) : (storeHeader k b s).width = s.width := rfl
@[simp] theorem storeHeader_height (k : Fin 54) (b : Byte) : (storeHeader k b s).height = s.height := rfl
@[simp] theorem storeHeader_extLen (k : Fin 54) (b : Byte) : (storeHeader k b s).extLen = s.extLen := rfl
@[simp] theorem storeHeader_ext (k : Fin 54) (b : Byte) : (storeHeader k b s).ext = s.ext := rfl
@[simp] theorem storeHeader_payloadLen (k : Fin 54) (b : Byte) : (storeHeader k b s).payloadLen = s.payloadLen := rfl
@[simp] theorem storeHeader_cap (k : Fin 54) (b : Byte) : (storeHeader k b s).cap = s.cap := rfl
@[simp] theorem storeHeader_req (k : Fin 54) (b : Byte) : (storeHeader k b s).req = s.req := rfl
@[simp] theorem storeHeader_cinPos (k : Fin 54) (b : Byte) : (storeHeader k b s).cinPos = s.cinPos := rfl
@[simp] theorem storeHeader_outPos (k : Fin 54) (b : Byte) : (storeHeader k b s).outPos = s.outPos := rfl
@[simp] theorem storeHeader_sinPos (k : Fin 54) (b : Byte) : (storeHeader k b s).sinPos = s.sinPos := rfl
@[simp] theorem storeHeader_dmarker (k : Fin 54) (b : Byte) : (storeHeader k b s).dmarker = s.dmarker := rfl
@[simp] theorem storeHeader_cw (k : Fin 54) (b : Byte) : (storeHeader k b s).cw = s.cw := rfl
@[simp] theorem storeHeader_session_kind (k : Fin 54) (b : Byte) : (storeHeader k b s).session.kind = s.session.kind := rfl
@[simp] theorem storeHeader_session_cont (k : Fin 54) (b : Byte) : (storeHeader k b s).session.cont = s.session.cont := rfl
@[simp] theorem storeHeader_session_hdr (k : Fin 54) (b : Byte) : (storeHeader k b s).session.hdr = s.session.hdr.set k.val b := rfl
@[simp] theorem storeHeader_session_group (k : Fin 54) (b : Byte) : (storeHeader k b s).session.group = s.session.group := rfl
@[simp] theorem storeHeader_session_mchkL (k : Fin 54) (b : Byte) : (storeHeader k b s).session.mchkL = s.session.mchkL := rfl
@[simp] theorem storeHeader_session_el (k : Fin 54) (b : Byte) : (storeHeader k b s).session.el = s.session.el := rfl
@[simp] theorem storeHeader_session_ext (k : Fin 54) (b : Byte) : (storeHeader k b s).session.ext = s.session.ext := rfl
@[simp] theorem storeHeader_session_pl (k : Fin 54) (b : Byte) : (storeHeader k b s).session.pl = s.session.pl := rfl
@[simp] theorem storeHeader_session_sinByte (k : Fin 54) (b : Byte) : (storeHeader k b s).session.sinByte = s.session.sinByte := rfl
@[simp] theorem storeHeader_cin (k : Fin 54) (b : Byte) : (storeHeader k b s).cin = s.cin := rfl
@[simp] theorem storeHeader_sin (k : Fin 54) (b : Byte) : (storeHeader k b s).sin = s.sin := rfl
@[simp] theorem storeHeader_cout (k : Fin 54) (b : Byte) : (storeHeader k b s).cout = s.cout := rfl
@[simp] theorem storeHeader_pout (k : Fin 54) (b : Byte) : (storeHeader k b s).pout = s.pout := rfl
@[simp] theorem storeHeader_rst (k : Fin 54) (b : Byte) : (storeHeader k b s).rst = s.rst := rfl
@[simp] theorem storeHeader_bus (k : Fin 54) (b : Byte) : (storeHeader k b s).bus = s.bus := rfl
@[simp] theorem storeHeader_host (k : Fin 54) (b : Byte) : (storeHeader k b s).host = s.host := rfl

/-! ### `storeGroup` -/

@[simp] theorem storeGroup_params (k : Fin 32) (b : Byte) : (storeGroup k b s).params = s.params := rfl
@[simp] theorem storeGroup_ie (k : Fin 32) (b : Byte) : (storeGroup k b s).ie = s.ie := rfl
@[simp] theorem storeGroup_mchk (k : Fin 32) (b : Byte) : (storeGroup k b s).mchk = s.mchk := rfl
@[simp] theorem storeGroup_cmd (k : Fin 32) (b : Byte) : (storeGroup k b s).cmd = s.cmd := rfl
@[simp] theorem storeGroup_status (k : Fin 32) (b : Byte) : (storeGroup k b s).status = s.status := rfl
@[simp] theorem storeGroup_value (k : Fin 32) (b : Byte) : (storeGroup k b s).value = s.value := rfl
@[simp] theorem storeGroup_width (k : Fin 32) (b : Byte) : (storeGroup k b s).width = s.width := rfl
@[simp] theorem storeGroup_height (k : Fin 32) (b : Byte) : (storeGroup k b s).height = s.height := rfl
@[simp] theorem storeGroup_extLen (k : Fin 32) (b : Byte) : (storeGroup k b s).extLen = s.extLen := rfl
@[simp] theorem storeGroup_ext (k : Fin 32) (b : Byte) : (storeGroup k b s).ext = s.ext := rfl
@[simp] theorem storeGroup_payloadLen (k : Fin 32) (b : Byte) : (storeGroup k b s).payloadLen = s.payloadLen := rfl
@[simp] theorem storeGroup_cap (k : Fin 32) (b : Byte) : (storeGroup k b s).cap = s.cap := rfl
@[simp] theorem storeGroup_req (k : Fin 32) (b : Byte) : (storeGroup k b s).req = s.req := rfl
@[simp] theorem storeGroup_cinPos (k : Fin 32) (b : Byte) : (storeGroup k b s).cinPos = s.cinPos := rfl
@[simp] theorem storeGroup_outPos (k : Fin 32) (b : Byte) : (storeGroup k b s).outPos = s.outPos := rfl
@[simp] theorem storeGroup_sinPos (k : Fin 32) (b : Byte) : (storeGroup k b s).sinPos = s.sinPos := rfl
@[simp] theorem storeGroup_dmarker (k : Fin 32) (b : Byte) : (storeGroup k b s).dmarker = s.dmarker := rfl
@[simp] theorem storeGroup_cw (k : Fin 32) (b : Byte) : (storeGroup k b s).cw = s.cw := rfl
@[simp] theorem storeGroup_session_kind (k : Fin 32) (b : Byte) : (storeGroup k b s).session.kind = s.session.kind := rfl
@[simp] theorem storeGroup_session_cont (k : Fin 32) (b : Byte) : (storeGroup k b s).session.cont = s.session.cont := rfl
@[simp] theorem storeGroup_session_hdr (k : Fin 32) (b : Byte) : (storeGroup k b s).session.hdr = s.session.hdr := rfl
@[simp] theorem storeGroup_session_group (k : Fin 32) (b : Byte) : (storeGroup k b s).session.group = s.session.group.set k.val b := rfl
@[simp] theorem storeGroup_session_mchkL (k : Fin 32) (b : Byte) : (storeGroup k b s).session.mchkL = s.session.mchkL := rfl
@[simp] theorem storeGroup_session_el (k : Fin 32) (b : Byte) : (storeGroup k b s).session.el = s.session.el := rfl
@[simp] theorem storeGroup_session_ext (k : Fin 32) (b : Byte) : (storeGroup k b s).session.ext = s.session.ext := rfl
@[simp] theorem storeGroup_session_pl (k : Fin 32) (b : Byte) : (storeGroup k b s).session.pl = s.session.pl := rfl
@[simp] theorem storeGroup_session_sinByte (k : Fin 32) (b : Byte) : (storeGroup k b s).session.sinByte = s.session.sinByte := rfl
@[simp] theorem storeGroup_cin (k : Fin 32) (b : Byte) : (storeGroup k b s).cin = s.cin := rfl
@[simp] theorem storeGroup_sin (k : Fin 32) (b : Byte) : (storeGroup k b s).sin = s.sin := rfl
@[simp] theorem storeGroup_cout (k : Fin 32) (b : Byte) : (storeGroup k b s).cout = s.cout := rfl
@[simp] theorem storeGroup_pout (k : Fin 32) (b : Byte) : (storeGroup k b s).pout = s.pout := rfl
@[simp] theorem storeGroup_rst (k : Fin 32) (b : Byte) : (storeGroup k b s).rst = s.rst := rfl
@[simp] theorem storeGroup_bus (k : Fin 32) (b : Byte) : (storeGroup k b s).bus = s.bus := rfl
@[simp] theorem storeGroup_host (k : Fin 32) (b : Byte) : (storeGroup k b s).host = s.host := rfl

/-! ### `loadDimensions` -/

@[simp] theorem loadDimensions_params : (loadDimensions s).params = s.params := rfl
@[simp] theorem loadDimensions_ie : (loadDimensions s).ie = s.ie := rfl
@[simp] theorem loadDimensions_mchk : (loadDimensions s).mchk = s.mchk := rfl
@[simp] theorem loadDimensions_cmd : (loadDimensions s).cmd = s.cmd := rfl
@[simp] theorem loadDimensions_status : (loadDimensions s).status = s.status := rfl
@[simp] theorem loadDimensions_value : (loadDimensions s).value = s.value := rfl
@[simp] theorem loadDimensions_width : (loadDimensions s).width = headerWidth s.session.hdr := rfl
@[simp] theorem loadDimensions_height : (loadDimensions s).height = headerHeight s.session.hdr := rfl
@[simp] theorem loadDimensions_extLen : (loadDimensions s).extLen = s.extLen := rfl
@[simp] theorem loadDimensions_ext : (loadDimensions s).ext = s.ext := rfl
@[simp] theorem loadDimensions_payloadLen : (loadDimensions s).payloadLen = s.payloadLen := rfl
@[simp] theorem loadDimensions_cap : (loadDimensions s).cap = s.cap := rfl
@[simp] theorem loadDimensions_req : (loadDimensions s).req = s.req := rfl
@[simp] theorem loadDimensions_cinPos : (loadDimensions s).cinPos = s.cinPos := rfl
@[simp] theorem loadDimensions_outPos : (loadDimensions s).outPos = s.outPos := rfl
@[simp] theorem loadDimensions_sinPos : (loadDimensions s).sinPos = s.sinPos := rfl
@[simp] theorem loadDimensions_dmarker : (loadDimensions s).dmarker = s.dmarker := rfl
@[simp] theorem loadDimensions_cw : (loadDimensions s).cw = s.cw := rfl
@[simp] theorem loadDimensions_session : (loadDimensions s).session = s.session := rfl
@[simp] theorem loadDimensions_cin : (loadDimensions s).cin = s.cin := rfl
@[simp] theorem loadDimensions_sin : (loadDimensions s).sin = s.sin := rfl
@[simp] theorem loadDimensions_cout : (loadDimensions s).cout = s.cout := rfl
@[simp] theorem loadDimensions_pout : (loadDimensions s).pout = s.pout := rfl
@[simp] theorem loadDimensions_rst : (loadDimensions s).rst = s.rst := rfl
@[simp] theorem loadDimensions_bus : (loadDimensions s).bus = s.bus := rfl
@[simp] theorem loadDimensions_host : (loadDimensions s).host = s.host := rfl

/-! ### `loadCapacity` -/

@[simp] theorem loadCapacity_params : (loadCapacity s).params = s.params := rfl
@[simp] theorem loadCapacity_ie : (loadCapacity s).ie = s.ie := rfl
@[simp] theorem loadCapacity_mchk : (loadCapacity s).mchk = s.mchk := rfl
@[simp] theorem loadCapacity_cmd : (loadCapacity s).cmd = s.cmd := rfl
@[simp] theorem loadCapacity_status : (loadCapacity s).status = s.status := rfl
@[simp] theorem loadCapacity_value : (loadCapacity s).value = s.value := rfl
@[simp] theorem loadCapacity_width : (loadCapacity s).width = s.width := rfl
@[simp] theorem loadCapacity_height : (loadCapacity s).height = s.height := rfl
@[simp] theorem loadCapacity_extLen : (loadCapacity s).extLen = s.extLen := rfl
@[simp] theorem loadCapacity_ext : (loadCapacity s).ext = s.ext := rfl
@[simp] theorem loadCapacity_payloadLen : (loadCapacity s).payloadLen = s.payloadLen := rfl
@[simp] theorem loadCapacity_cap : (loadCapacity s).cap = BitVec.ofNat 66 (imageCapacityBytes s.width s.height) := rfl
@[simp] theorem loadCapacity_req : (loadCapacity s).req = s.req := rfl
@[simp] theorem loadCapacity_cinPos : (loadCapacity s).cinPos = s.cinPos := rfl
@[simp] theorem loadCapacity_outPos : (loadCapacity s).outPos = s.outPos := rfl
@[simp] theorem loadCapacity_sinPos : (loadCapacity s).sinPos = s.sinPos := rfl
@[simp] theorem loadCapacity_dmarker : (loadCapacity s).dmarker = s.dmarker := rfl
@[simp] theorem loadCapacity_cw : (loadCapacity s).cw = s.cw := rfl
@[simp] theorem loadCapacity_session : (loadCapacity s).session = s.session := rfl
@[simp] theorem loadCapacity_cin : (loadCapacity s).cin = s.cin := rfl
@[simp] theorem loadCapacity_sin : (loadCapacity s).sin = s.sin := rfl
@[simp] theorem loadCapacity_cout : (loadCapacity s).cout = s.cout := rfl
@[simp] theorem loadCapacity_pout : (loadCapacity s).pout = s.pout := rfl
@[simp] theorem loadCapacity_rst : (loadCapacity s).rst = s.rst := rfl
@[simp] theorem loadCapacity_bus : (loadCapacity s).bus = s.bus := rfl
@[simp] theorem loadCapacity_host : (loadCapacity s).host = s.host := rfl

/-! ### `loadRequired` -/

@[simp] theorem loadRequired_params (el pl : Word) : (loadRequired el pl s).params = s.params := rfl
@[simp] theorem loadRequired_ie (el pl : Word) : (loadRequired el pl s).ie = s.ie := rfl
@[simp] theorem loadRequired_mchk (el pl : Word) : (loadRequired el pl s).mchk = s.mchk := rfl
@[simp] theorem loadRequired_cmd (el pl : Word) : (loadRequired el pl s).cmd = s.cmd := rfl
@[simp] theorem loadRequired_status (el pl : Word) : (loadRequired el pl s).status = s.status := rfl
@[simp] theorem loadRequired_value (el pl : Word) : (loadRequired el pl s).value = s.value := rfl
@[simp] theorem loadRequired_width (el pl : Word) : (loadRequired el pl s).width = s.width := rfl
@[simp] theorem loadRequired_height (el pl : Word) : (loadRequired el pl s).height = s.height := rfl
@[simp] theorem loadRequired_extLen (el pl : Word) : (loadRequired el pl s).extLen = s.extLen := rfl
@[simp] theorem loadRequired_ext (el pl : Word) : (loadRequired el pl s).ext = s.ext := rfl
@[simp] theorem loadRequired_payloadLen (el pl : Word) : (loadRequired el pl s).payloadLen = s.payloadLen := rfl
@[simp] theorem loadRequired_cap (el pl : Word) : (loadRequired el pl s).cap = s.cap := rfl
@[simp] theorem loadRequired_req (el pl : Word) : (loadRequired el pl s).req = BitVec.ofNat 37 (requiredBits s.params.markerLen.val el.toNat pl.toNat) := rfl
@[simp] theorem loadRequired_cinPos (el pl : Word) : (loadRequired el pl s).cinPos = s.cinPos := rfl
@[simp] theorem loadRequired_outPos (el pl : Word) : (loadRequired el pl s).outPos = s.outPos := rfl
@[simp] theorem loadRequired_sinPos (el pl : Word) : (loadRequired el pl s).sinPos = s.sinPos := rfl
@[simp] theorem loadRequired_dmarker (el pl : Word) : (loadRequired el pl s).dmarker = s.dmarker := rfl
@[simp] theorem loadRequired_cw (el pl : Word) : (loadRequired el pl s).cw = s.cw := rfl
@[simp] theorem loadRequired_session (el pl : Word) : (loadRequired el pl s).session = s.session := rfl
@[simp] theorem loadRequired_cin (el pl : Word) : (loadRequired el pl s).cin = s.cin := rfl
@[simp] theorem loadRequired_sin (el pl : Word) : (loadRequired el pl s).sin = s.sin := rfl
@[simp] theorem loadRequired_cout (el pl : Word) : (loadRequired el pl s).cout = s.cout := rfl
@[simp] theorem loadRequired_pout (el pl : Word) : (loadRequired el pl s).pout = s.pout := rfl
@[simp] theorem loadRequired_rst (el pl : Word) : (loadRequired el pl s).rst = s.rst := rfl
@[simp] theorem loadRequired_bus (el pl : Word) : (loadRequired el pl s).bus = s.bus := rfl
@[simp] theorem loadRequired_host (el pl : Word) : (loadRequired el pl s).host = s.host := rfl

/-! ### `setCapOk` -/

@[simp] theorem setCapOk_params : (setCapOk s).params = s.params := rfl
@[simp] theorem setCapOk_ie : (setCapOk s).ie = s.ie := rfl
@[simp] theorem setCapOk_mchk : (setCapOk s).mchk = s.mchk := rfl
@[simp] theorem setCapOk_cmd : (setCapOk s).cmd = s.cmd := rfl
@[simp] theorem setCapOk_status_busy : (setCapOk s).status.busy = s.status.busy := rfl
@[simp] theorem setCapOk_status_done : (setCapOk s).status.done = s.status.done := rfl
@[simp] theorem setCapOk_status_capOk : (setCapOk s).status.capOk = true := rfl
@[simp] theorem setCapOk_status_wign : (setCapOk s).status.wign = s.status.wign := rfl
@[simp] theorem setCapOk_status_mmatch : (setCapOk s).status.mmatch = s.status.mmatch := rfl
@[simp] theorem setCapOk_status_err : (setCapOk s).status.err = s.status.err := rfl
@[simp] theorem setCapOk_status_phase : (setCapOk s).status.phase = s.status.phase := rfl
@[simp] theorem setCapOk_status_mode : (setCapOk s).status.mode = s.status.mode := rfl
@[simp] theorem setCapOk_value : (setCapOk s).value = s.value := rfl
@[simp] theorem setCapOk_width : (setCapOk s).width = s.width := rfl
@[simp] theorem setCapOk_height : (setCapOk s).height = s.height := rfl
@[simp] theorem setCapOk_extLen : (setCapOk s).extLen = s.extLen := rfl
@[simp] theorem setCapOk_ext : (setCapOk s).ext = s.ext := rfl
@[simp] theorem setCapOk_payloadLen : (setCapOk s).payloadLen = s.payloadLen := rfl
@[simp] theorem setCapOk_cap : (setCapOk s).cap = s.cap := rfl
@[simp] theorem setCapOk_req : (setCapOk s).req = s.req := rfl
@[simp] theorem setCapOk_cinPos : (setCapOk s).cinPos = s.cinPos := rfl
@[simp] theorem setCapOk_outPos : (setCapOk s).outPos = s.outPos := rfl
@[simp] theorem setCapOk_sinPos : (setCapOk s).sinPos = s.sinPos := rfl
@[simp] theorem setCapOk_dmarker : (setCapOk s).dmarker = s.dmarker := rfl
@[simp] theorem setCapOk_cw : (setCapOk s).cw = s.cw := rfl
@[simp] theorem setCapOk_session : (setCapOk s).session = s.session := rfl
@[simp] theorem setCapOk_cin : (setCapOk s).cin = s.cin := rfl
@[simp] theorem setCapOk_sin : (setCapOk s).sin = s.sin := rfl
@[simp] theorem setCapOk_cout : (setCapOk s).cout = s.cout := rfl
@[simp] theorem setCapOk_pout : (setCapOk s).pout = s.pout := rfl
@[simp] theorem setCapOk_rst : (setCapOk s).rst = s.rst := rfl
@[simp] theorem setCapOk_bus : (setCapOk s).bus = s.bus := rfl
@[simp] theorem setCapOk_host : (setCapOk s).host = s.host := rfl

/-! ### `setWign` -/

@[simp] theorem setWign_params : (setWign s).params = s.params := rfl
@[simp] theorem setWign_ie : (setWign s).ie = s.ie := rfl
@[simp] theorem setWign_mchk : (setWign s).mchk = s.mchk := rfl
@[simp] theorem setWign_cmd : (setWign s).cmd = s.cmd := rfl
@[simp] theorem setWign_status_busy : (setWign s).status.busy = s.status.busy := rfl
@[simp] theorem setWign_status_done : (setWign s).status.done = s.status.done := rfl
@[simp] theorem setWign_status_capOk : (setWign s).status.capOk = s.status.capOk := rfl
@[simp] theorem setWign_status_wign : (setWign s).status.wign = true := rfl
@[simp] theorem setWign_status_mmatch : (setWign s).status.mmatch = s.status.mmatch := rfl
@[simp] theorem setWign_status_err : (setWign s).status.err = s.status.err := rfl
@[simp] theorem setWign_status_phase : (setWign s).status.phase = s.status.phase := rfl
@[simp] theorem setWign_status_mode : (setWign s).status.mode = s.status.mode := rfl
@[simp] theorem setWign_value : (setWign s).value = s.value := rfl
@[simp] theorem setWign_width : (setWign s).width = s.width := rfl
@[simp] theorem setWign_height : (setWign s).height = s.height := rfl
@[simp] theorem setWign_extLen : (setWign s).extLen = s.extLen := rfl
@[simp] theorem setWign_ext : (setWign s).ext = s.ext := rfl
@[simp] theorem setWign_payloadLen : (setWign s).payloadLen = s.payloadLen := rfl
@[simp] theorem setWign_cap : (setWign s).cap = s.cap := rfl
@[simp] theorem setWign_req : (setWign s).req = s.req := rfl
@[simp] theorem setWign_cinPos : (setWign s).cinPos = s.cinPos := rfl
@[simp] theorem setWign_outPos : (setWign s).outPos = s.outPos := rfl
@[simp] theorem setWign_sinPos : (setWign s).sinPos = s.sinPos := rfl
@[simp] theorem setWign_dmarker : (setWign s).dmarker = s.dmarker := rfl
@[simp] theorem setWign_cw : (setWign s).cw = s.cw := rfl
@[simp] theorem setWign_session : (setWign s).session = s.session := rfl
@[simp] theorem setWign_cin : (setWign s).cin = s.cin := rfl
@[simp] theorem setWign_sin : (setWign s).sin = s.sin := rfl
@[simp] theorem setWign_cout : (setWign s).cout = s.cout := rfl
@[simp] theorem setWign_pout : (setWign s).pout = s.pout := rfl
@[simp] theorem setWign_rst : (setWign s).rst = s.rst := rfl
@[simp] theorem setWign_bus : (setWign s).bus = s.bus := rfl
@[simp] theorem setWign_host : (setWign s).host = s.host := rfl

/-! ### `answerBus` -/

@[simp] theorem answerBus_params (a : BusAnswer) : (answerBus a s).params = s.params := rfl
@[simp] theorem answerBus_ie (a : BusAnswer) : (answerBus a s).ie = s.ie := rfl
@[simp] theorem answerBus_mchk (a : BusAnswer) : (answerBus a s).mchk = s.mchk := rfl
@[simp] theorem answerBus_cmd (a : BusAnswer) : (answerBus a s).cmd = s.cmd := rfl
@[simp] theorem answerBus_status (a : BusAnswer) : (answerBus a s).status = s.status := rfl
@[simp] theorem answerBus_value (a : BusAnswer) : (answerBus a s).value = s.value := rfl
@[simp] theorem answerBus_width (a : BusAnswer) : (answerBus a s).width = s.width := rfl
@[simp] theorem answerBus_height (a : BusAnswer) : (answerBus a s).height = s.height := rfl
@[simp] theorem answerBus_extLen (a : BusAnswer) : (answerBus a s).extLen = s.extLen := rfl
@[simp] theorem answerBus_ext (a : BusAnswer) : (answerBus a s).ext = s.ext := rfl
@[simp] theorem answerBus_payloadLen (a : BusAnswer) : (answerBus a s).payloadLen = s.payloadLen := rfl
@[simp] theorem answerBus_cap (a : BusAnswer) : (answerBus a s).cap = s.cap := rfl
@[simp] theorem answerBus_req (a : BusAnswer) : (answerBus a s).req = s.req := rfl
@[simp] theorem answerBus_cinPos (a : BusAnswer) : (answerBus a s).cinPos = s.cinPos := rfl
@[simp] theorem answerBus_outPos (a : BusAnswer) : (answerBus a s).outPos = s.outPos := rfl
@[simp] theorem answerBus_sinPos (a : BusAnswer) : (answerBus a s).sinPos = s.sinPos := rfl
@[simp] theorem answerBus_dmarker (a : BusAnswer) : (answerBus a s).dmarker = s.dmarker := rfl
@[simp] theorem answerBus_cw (a : BusAnswer) : (answerBus a s).cw = s.cw := rfl
@[simp] theorem answerBus_session (a : BusAnswer) : (answerBus a s).session = s.session := rfl
@[simp] theorem answerBus_cin (a : BusAnswer) : (answerBus a s).cin = s.cin := rfl
@[simp] theorem answerBus_sin (a : BusAnswer) : (answerBus a s).sin = s.sin := rfl
@[simp] theorem answerBus_cout (a : BusAnswer) : (answerBus a s).cout = s.cout := rfl
@[simp] theorem answerBus_pout (a : BusAnswer) : (answerBus a s).pout = s.pout := rfl
@[simp] theorem answerBus_rst (a : BusAnswer) : (answerBus a s).rst = s.rst := rfl
@[simp] theorem answerBus_bus (a : BusAnswer) : (answerBus a s).bus = some a := rfl
@[simp] theorem answerBus_host (a : BusAnswer) : (answerBus a s).host = s.host := rfl

/-! ### `releaseReset` -/

@[simp] theorem releaseReset_params : (releaseReset s).params = s.params := rfl
@[simp] theorem releaseReset_ie : (releaseReset s).ie = s.ie := rfl
@[simp] theorem releaseReset_mchk : (releaseReset s).mchk = s.mchk := rfl
@[simp] theorem releaseReset_cmd : (releaseReset s).cmd = s.cmd := rfl
@[simp] theorem releaseReset_status : (releaseReset s).status = s.status := rfl
@[simp] theorem releaseReset_value : (releaseReset s).value = s.value := rfl
@[simp] theorem releaseReset_width : (releaseReset s).width = s.width := rfl
@[simp] theorem releaseReset_height : (releaseReset s).height = s.height := rfl
@[simp] theorem releaseReset_extLen : (releaseReset s).extLen = s.extLen := rfl
@[simp] theorem releaseReset_ext : (releaseReset s).ext = s.ext := rfl
@[simp] theorem releaseReset_payloadLen : (releaseReset s).payloadLen = s.payloadLen := rfl
@[simp] theorem releaseReset_cap : (releaseReset s).cap = s.cap := rfl
@[simp] theorem releaseReset_req : (releaseReset s).req = s.req := rfl
@[simp] theorem releaseReset_cinPos : (releaseReset s).cinPos = s.cinPos := rfl
@[simp] theorem releaseReset_outPos : (releaseReset s).outPos = s.outPos := rfl
@[simp] theorem releaseReset_sinPos : (releaseReset s).sinPos = s.sinPos := rfl
@[simp] theorem releaseReset_dmarker : (releaseReset s).dmarker = s.dmarker := rfl
@[simp] theorem releaseReset_cw : (releaseReset s).cw = s.cw := rfl
@[simp] theorem releaseReset_session : (releaseReset s).session = s.session := rfl
@[simp] theorem releaseReset_cin : (releaseReset s).cin = s.cin := rfl
@[simp] theorem releaseReset_sin : (releaseReset s).sin = s.sin := rfl
@[simp] theorem releaseReset_cout : (releaseReset s).cout = s.cout := rfl
@[simp] theorem releaseReset_pout : (releaseReset s).pout = s.pout := rfl
@[simp] theorem releaseReset_rst : (releaseReset s).rst = false := rfl
@[simp] theorem releaseReset_bus : (releaseReset s).bus = s.bus := rfl
@[simp] theorem releaseReset_host : (releaseReset s).host = s.host := rfl

end Sys2Proof.Machine
end

