-- ==== Sys2Proof/Laws/Step.lean ====
section
/-! SUPPORT. What one step can do, said once per shared operation: an inversion lemma for the step, the host's move, the bus
write and the acceptance of a command, and the cases of the two carrier readers. -/

namespace Sys2Proof.Machine

/-! ### The step and the host's move -/

@[simp] theorem step_nil {s : State} (h : s.host = []) : step s = .next s := by
  simp [step, transition, h]

theorem step_cons {s : State} {e : HostEvent} {rest : List HostEvent} (h : s.host = e :: rest) :
    step s = hostMove e { s with host := rest } := by
  simp [step, transition, h]

/-- A step does nothing, or makes the host's next move. -/
theorem step_cases {s t : State} (h : step s = .next t) :
    (s.host = [] ∧ t = s) ∨ ∃ e rest, s.host = e :: rest ∧ hostMove e { s with host := rest } = .next t := by
  rcases hs : s.host with _ | ⟨e, rest⟩
  · rw [step_nil hs] at h
    cases h
    exact .inl ⟨rfl, rfl⟩
  · exact .inr ⟨e, rest, rfl, by rw [← h, step_cons hs]⟩

theorem hostMove_of_rst {e : HostEvent} {s : State} (h : s.rst = true) : hostMove e s = .next (moveInReset e s) := by
  simp [hostMove, h]

theorem hostMove_of_running {e : HostEvent} {s : State} (h : s.rst = false) : hostMove e s = moveRunning e s := by
  simp [hostMove, h]

/-- The inversion of a step, with the two ways a move is made. -/
theorem step_moves {s t : State} (h : step s = .next t) :
    (s.host = [] ∧ t = s) ∨ ∃ e rest, s.host = e :: rest ∧
      ((s.rst = true ∧ t = moveInReset e { s with host := rest }) ∨
       (s.rst = false ∧ moveRunning e { s with host := rest } = .next t)) := by
  obtain h | ⟨e, rest, hh, hm⟩ := step_cases h
  · exact .inl h
  · refine .inr ⟨e, rest, hh, ?_⟩
    by_cases hr : s.rst = true
    · have := (hostMove_of_rst (e := e) (s := { s with host := rest }) hr).symm.trans hm
      exact .inl ⟨hr, (Host.Outcome.next.inj this).symm⟩
    · rw [Bool.not_eq_true] at hr
      exact .inr ⟨hr, (hostMove_of_running (e := e) (s := { s with host := rest }) hr).symm.trans hm⟩

/-- A step of a running block makes the host's next move. -/
theorem step_running {s : State} {e : HostEvent} {rest : List HostEvent} (hr : s.rst = false) (h : s.host = e :: rest) :
    step s = moveRunning e { s with host := rest } :=
  (step_cons h).trans (hostMove_of_running hr)

/-- A move in reset changes nothing but the reset input. -/
theorem moveInReset_cases (e : HostEvent) (s : State) : moveInReset e s = s ∨ moveInReset e s = releaseReset s := by
  cases e <;> simp [moveInReset]

/-- The six moves of a running block. -/
theorem moveRunning_cases {e : HostEvent} {s t : State} (h : moveRunning e s = .next t) :
    (∃ off lanes, e = .regRead off lanes ∧ t = regRead off lanes s) ∨
    (∃ off lanes v, e = .regWrite off lanes v ∧ regWrite off lanes v s = .next t) ∨
    (∃ r, e = .readAnswer r ∧ answerRead r s = .next t) ∨
    (∃ w, e = .writeAnswer w ∧ answerWrite w s = .next t) ∨
    (e = .rstAssert ∧ t = assertReset s) ∨ (e = .rstRelease ∧ t = s) := by
  cases e with
  | regRead off lanes => simp only [moveRunning, Host.Outcome.next.injEq] at h; simp [h]
  | regWrite off lanes v => exact .inr (.inl ⟨off, lanes, v, rfl, h⟩)
  | readAnswer r => exact .inr (.inr (.inl ⟨r, rfl, h⟩))
  | writeAnswer w => exact .inr (.inr (.inr (.inl ⟨w, rfl, h⟩)))
  | rstAssert => simp only [moveRunning, Host.Outcome.next.injEq] at h; simp [h]
  | rstRelease => simp only [moveRunning, Host.Outcome.next.injEq] at h; simp [h]

/-! ### The bus -/

/-- R72: a transaction is carried out when its offset is a multiple of 4 and all lanes are enabled. -/
theorem busAligned_iff (off : BitVec 8) (lanes : BitVec 4) :
    busAligned off lanes = true ↔ off.toNat % 4 = 0 ∧ lanes = 0xF := by
  simp only [busAligned, Bool.and_eq_true, beq_iff_eq]
  rw [← BitVec.toNat_inj]
  simp

/-- The offset of an RW-data register is aligned, and neither `CMD` nor `CTRL`. -/
theorem isRwData_offset {off : BitVec 8} (h : isRwData off = true) :
    busAligned off 0xF = true ∧ off ≠ 0x08 ∧ off ≠ 0x04 := by
  revert h; revert off; decide

theorem regWrite_cmd (v : Word) (s : State) : regWrite 0x08 0xF v s = writeCmd v (answerBus .ok s) := rfl

theorem regWrite_ctrl (v : Word) (s : State) : regWrite 0x04 0xF v s = .next (writeCtrl v (answerBus .ok s)) := rfl

theorem writeCmd_of_busy {w : Word} {s : State} (h : s.status.busy = true) : writeCmd w s = .next (setWign s) :=
  if_pos h

theorem writeCmd_of_idle {w : Word} {s : State} (h : s.status.busy = false) :
    writeCmd w s = acceptCmd w { s with cmd := w } := by
  simp [writeCmd, h]

/-- A full-word write of an aligned offset that is neither `CMD` nor `CTRL`. -/
theorem regWrite_data {off : BitVec 8} (v : Word) (s : State) (ha : busAligned off 0xF = true) (h8 : off ≠ 0x08)
    (h4 : off ≠ 0x04) : regWrite off 0xF v s = .next (writeData off v (answerBus .ok s)) := by
  rw [regWrite, if_pos ha, if_neg h8, if_neg h4]

/-- A read changes nothing but the bus answer. -/
theorem regRead_eq (off : BitVec 8) (lanes : BitVec 4) (s : State) : ∃ a, regRead off lanes s = answerBus a s := by
  unfold regRead
  split
  · exact ⟨_, rfl⟩
  · exact ⟨_, rfl⟩

/-- What a bus write can do. -/
theorem regWrite_cases {off : BitVec 8} {lanes : BitVec 4} {v : Word} {s t : State}
    (h : regWrite off lanes v s = .next t) :
    (busAligned off lanes = false ∧ t = answerBus .busError s) ∨
    (busAligned off lanes = true ∧
      ((off = 0x04 ∧ t = writeCtrl v (answerBus .ok s)) ∨
       (s.status.busy = true ∧ t = setWign (answerBus .ok s)) ∨
       (off ≠ 0x04 ∧ off ≠ 0x08 ∧ isRwData off = false ∧ t = answerBus .ok s) ∨
       (s.status.busy = false ∧ isRwData off = true ∧ t = storeRwData off v (answerBus .ok s)) ∨
       (s.status.busy = false ∧ off = 0x08 ∧ acceptCmd v { answerBus .ok s with cmd := v } = .next t))) := by
  unfold regWrite at h
  cases ha : busAligned off lanes
  · simp only [ha, Bool.false_eq_true, if_false, Host.Outcome.next.injEq] at h
    exact .inl ⟨rfl, h.symm⟩
  · refine .inr ⟨rfl, ?_⟩
    simp only [ha, if_true] at h
    by_cases h8 : off = 0x08
    · simp only [h8, if_true, writeCmd, answerBus_status] at h
      cases hb : s.status.busy
      · simp only [hb, Bool.false_eq_true, if_false] at h
        exact .inr (.inr (.inr (.inr ⟨rfl, h8, h⟩)))
      · simp only [hb, if_true, Host.Outcome.next.injEq] at h
        exact .inr (.inl ⟨rfl, h.symm⟩)
    · simp only [h8, if_false] at h
      by_cases h4 : off = 0x04
      · simp only [h4, if_true, Host.Outcome.next.injEq] at h
        exact .inl ⟨h4, h.symm⟩
      · simp only [h4, if_false, writeData, answerBus_status, Host.Outcome.next.injEq] at h
        cases hd : isRwData off
        · simp only [hd, Bool.false_eq_true, if_false] at h
          exact .inr (.inr (.inl ⟨h4, h8, rfl, h.symm⟩))
        · cases hb : s.status.busy
          · simp only [hd, hb, if_true, Bool.false_eq_true, if_false] at h
            exact .inr (.inr (.inr (.inl ⟨rfl, rfl, h.symm⟩)))
          · simp only [hd, hb, if_true] at h
            exact .inr (.inl ⟨rfl, h.symm⟩)

/-- A store to an RW-data register changes the data registers and the window, nothing else. -/
theorem storeRwData_frame (off : BitVec 8) (v : Word) (s : State) :
    ∃ a b c d e f g, storeRwData off v s =
      { s with value := a, width := b, height := c, extLen := d, ext := e, payloadLen := f, cw := g } :=
  ⟨_, _, _, _, _, _, _, rfl⟩

/-! ### The acceptance of a command -/

/-- Every command answers a next state. -/
theorem exec_next (i : Instr) (s : State) : ∃ t, exec i s = .next t := by
  cases i <;> simp only [exec, execNop, execEncb, execDecb, execEncw, execDecw, execCapchk, execEncode, execDecode]
  case capchk => split <;> exact ⟨_, rfl⟩
  case encode => split <;> exact ⟨_, rfl⟩
  all_goals exact ⟨_, rfl⟩

/-- An accepted word is illegal and ends in CommandError, or is a command that runs. -/
theorem acceptCmd_cases {w : Word} {s t : State} (h : acceptCmd w s = .next t) :
    ((∃ why, decodeCmd w = .illegal why) ∧ t = illegalCommand s) ∨
    ∃ i, decodeCmd w = .command i ∧ exec i s = .next t := by
  unfold acceptCmd at h
  cases hd : decodeCmd w with
  | command i => simp only [hd] at h; exact .inr ⟨i, rfl, h⟩
  | illegal why => simp only [hd, Host.Outcome.next.injEq] at h; exact .inl ⟨⟨why, rfl⟩, h.symm⟩

/-- A command completes in its acceptance, with the window, `VALUE` or the capacity registers written, or starts its
session. -/
theorem exec_cases {i : Instr} {s t : State} (h : exec i s = .next t) :
    (∃ e ok a b c d, t = complete e { accept false s with
        value := a, cw := b, cap := c, req := d, status := { (accept false s).status with capOk := ok } }) ∨
    t = raise .argumentError (clearCounters (accept false s)) ∨
    (s.extLen.toNat ≤ s.params.extMax.val ∧ s.payloadLen.toNat ≤ s.params.payloadMax.toNat ∧
      t = startSession
        { Session.idle with kind := .encode, cont := .header 0, el := s.extLen, ext := s.ext, pl := s.payloadLen }
        (clearCounters (accept false s))) ∨
    t = startSession { Session.idle with kind := .decode, cont := .header 0, mchkL := s.mchk }
      { clearCounters (accept true s) with extLen := 0, ext := 0, payloadLen := 0, dmarker := 0 } := by
  cases i <;> simp only [exec, execNop, execEncb, execDecb, execEncw, execDecw, execCapchk, execEncode, execDecode,
    Host.Outcome.next.injEq] at h
  case nop => exact .inl ⟨_, false, _, _, _, _, h.symm⟩
  case encb => exact .inl ⟨_, false, _, _, _, _, h.symm⟩
  case decb => exact .inl ⟨_, false, _, _, _, _, h.symm⟩
  case encw => exact .inl ⟨_, false, _, _, _, _, h.symm⟩
  case decw => exact .inl ⟨_, false, _, _, _, _, h.symm⟩
  case capchk =>
    split at h <;> cases h
    · exact .inl ⟨.none, true, _, _, _, _, rfl⟩
    · exact .inl ⟨.capacityError, false, _, _, _, _, rfl⟩
  case encode =>
    split at h <;> cases h
    · exact .inr (.inl rfl)
    · rename_i hn
      exact .inr (.inr (.inl ⟨by omega, by omega, rfl⟩))
  case decode => exact .inr (.inr (.inr h.symm))

/-! ### The two carrier readers -/

/-- What the answer to a header read does. -/
theorem readHeader_cases (after : State → State) (k : Fin 54) (r : ReadResult) (s : State) :
    (∃ e, readHeader after k r s = raise e s ∧ e ≠ .none ∧ ∀ b, r ≠ .byte b) ∨
    ∃ b, r = .byte b ∧
      ((k.val = 1 ∧ signatureOk (s.session.hdr.set k.val b) = false ∧
          readHeader after k r s = raise .formatError (storeHeader k b (cinReceived b s))) ∨
       ((k.val = 1 → signatureOk (s.session.hdr.set k.val b) = true) ∧ ∃ h : k.val + 1 < 54,
          readHeader after k r s = await (.header ⟨k.val + 1, h⟩) (storeHeader k b (cinReceived b s))) ∨
       (k.val = 53 ∧ readHeader after k r s = after (loadDimensions (storeHeader k b (cinReceived b s))))) := by
  cases r with
  | err => exact .inl ⟨.ioError, rfl, by simp, by simp⟩
  | endOfStream => exact .inl ⟨_, rfl, by split <;> simp, by simp⟩
  | byte b =>
    refine .inr ⟨b, rfl, ?_⟩
    by_cases h1 : k.val = 1 ∧ signatureOk (s.session.hdr.set k.val b) = false
    · exact .inl ⟨h1.1, h1.2, if_pos h1⟩
    · have h1' : k.val = 1 → signatureOk (s.session.hdr.set k.val b) = true := by
        intro hk
        cases hs : signatureOk (s.session.hdr.set k.val b)
        · exact absurd ⟨hk, hs⟩ h1
        · rfl
      by_cases h2 : k.val + 1 < 54
      · exact .inr (.inl ⟨h1', h2, (if_neg h1).trans (dif_pos h2)⟩)
      · exact .inr (.inr ⟨by omega, (if_neg h1).trans (dif_neg h2)⟩)

/-- What the answer to a group read does. -/
theorem readGroup_cases (after : Field → State → State) (f : Field) (k : Fin 32) (r : ReadResult) (s : State) :
    (readGroup after f k r s = raise .ioError s ∧ ∀ b, r ≠ .byte b) ∨
    ∃ b, r = .byte b ∧
      ((∃ (_ : k.val + 1 < groupSize f) (h' : k.val + 1 < 32),
          readGroup after f k r s = await (.fill f ⟨k.val + 1, h'⟩) (storeGroup k b (cinReceived b s))) ∨
       (groupSize f ≤ k.val + 1 ∧ readGroup after f k r s = after f (storeGroup k b (cinReceived b s)))) := by
  cases r with
  | err => exact .inl ⟨rfl, by simp⟩
  | endOfStream => exact .inl ⟨rfl, by simp⟩
  | byte b =>
    refine .inr ⟨b, rfl, ?_⟩
    simp only [readGroup]
    by_cases h : k.val + 1 < groupSize f
    · exact .inl ⟨h, Nat.lt_of_lt_of_le h (groupSize_le f), by rw [dif_pos h]⟩
    · exact .inr ⟨by omega, by rw [dif_neg h]⟩

end Sys2Proof.Machine
end

