-- ==== Sys2Proof/Laws/Engine.lean ====
section
/-! SUPPORT. The answers to a stream transaction, said once: which rule runs at which point of a session, what any answer
keeps, and the forms `Completes`, `Raises` and `Continues` of Safety.lean. -/

namespace Sys2Proof.Machine

/-! ### Which rule runs -/

theorem step_readAnswer {s : State} {r : ReadResult} {rest : List HostEvent} (hr : s.rst = false)
    (h : s.host = .readAnswer r :: rest) : step s = answerRead r { s with host := rest } := step_running hr h

theorem step_writeAnswer {s : State} {w : WriteResult} {rest : List HostEvent} (hr : s.rst = false)
    (h : s.host = .writeAnswer w :: rest) : step s = answerWrite w { s with host := rest } := step_running hr h

theorem answerRead_encode_header {s : State} {k : Fin 54} (r : ReadResult) (hk : s.session.kind = .encode)
    (hc : s.session.cont = .header k) : answerRead r s = .next (readHeader encodePreflight k r s) := by
  simp [answerRead, hk, hc]

theorem answerRead_decode_header {s : State} {k : Fin 54} (r : ReadResult) (hk : s.session.kind = .decode)
    (hc : s.session.cont = .header k) : answerRead r s = .next (readHeader decodeHeaderDone k r s) := by
  simp [answerRead, hk, hc]

theorem answerRead_encode_fill {s : State} {f : Field} {k : Fin 32} (r : ReadResult) (hk : s.session.kind = .encode)
    (hc : s.session.cont = .fill f k) : answerRead r s = .next (readGroup encodeGroup f k r s) := by
  simp [answerRead, hk, hc]

theorem answerRead_decode_fill {s : State} {f : Field} {k : Fin 32} (r : ReadResult) (hk : s.session.kind = .decode)
    (hc : s.session.cont = .fill f k) : answerRead r s = .next (readGroup decodeGroup f k r s) := by
  simp [answerRead, hk, hc]

theorem answerRead_payloadIn {s : State} {k : Nat} (r : ReadResult) (hk : s.session.kind = .encode)
    (hc : s.session.cont = .payloadIn k) : answerRead r s = .next (encodeSin k r s) := by
  simp [answerRead, hk, hc]

theorem answerRead_tail {s : State} (r : ReadResult) (hk : s.session.kind = .encode) (hc : s.session.cont = .tail) :
    answerRead r s = .next (encodeTail r s) := by
  simp [answerRead, hk, hc]

theorem answerWrite_headerOut {s : State} {k : Fin 54} (w : WriteResult) (hk : s.session.kind = .encode)
    (hc : s.session.cont = .headerOut k) : answerWrite w s = .next (encodeHeaderOut k w s) := by
  simp [answerWrite, hk, hc]

theorem answerWrite_emit {s : State} {f : Field} {k : Fin 32} (w : WriteResult) (hk : s.session.kind = .encode)
    (hc : s.session.cont = .emit f k) : answerWrite w s = .next (encodeEmit f k w s) := by
  simp [answerWrite, hk, hc]

theorem answerWrite_tailOut {s : State} {b : Byte} (w : WriteResult) (hk : s.session.kind = .encode)
    (hc : s.session.cont = .tailOut b) : answerWrite w s = .next (encodeTailOut b w s) := by
  simp [answerWrite, hk, hc]

theorem answerWrite_deliver {s : State} {k : Nat} {b : Byte} (w : WriteResult) (hk : s.session.kind = .decode)
    (hc : s.session.cont = .deliver k b) : answerWrite w s = .next (decodeDeliver k b w s) := by
  simp [answerWrite, hk, hc]

/-- A raised error is what `Raises` says. -/
theorem raises_raise (e : ErrKind) (s : State) : Raises e s (.next (raise e s)) := ⟨Session.idle, rfl, rfl, rfl⟩

/-! ### What any answer keeps -/

/-- What an answer keeps, whatever it is: the parameters, the host's registers and side, `WIGN` and `MODE`; and the session
goes on with `BUSY`, `DONE` and `ERR` as they were, or it ends. -/
structure AnswerKeeps (s t : State) : Prop where
  params : t.params = s.params
  ie : t.ie = s.ie
  mchk : t.mchk = s.mchk
  cmd : t.cmd = s.cmd
  value : t.value = s.value
  cw : t.cw = s.cw
  wign : t.status.wign = s.status.wign
  mode : t.status.mode = s.status.mode
  rst : t.rst = s.rst
  bus : t.bus = s.bus
  host : t.host = s.host
  ends : (t.status.busy = s.status.busy ∧ t.status.done = s.status.done ∧ t.status.err = s.status.err) ∨
    (t.status.busy = false ∧ t.status.done = true)

theorem AnswerKeeps.rfl' (s : State) : AnswerKeeps s s :=
  ⟨rfl, rfl, rfl, rfl, rfl, rfl, rfl, rfl, rfl, rfl, rfl, .inl ⟨rfl, rfl, rfl⟩⟩

theorem AnswerKeeps.trans {s t u : State} (h : AnswerKeeps s t) (g : AnswerKeeps t u)
    (e : t.status.busy = s.status.busy ∧ t.status.done = s.status.done ∧ t.status.err = s.status.err) :
    AnswerKeeps s u where
  params := g.params.trans h.params
  ie := g.ie.trans h.ie
  mchk := g.mchk.trans h.mchk
  cmd := g.cmd.trans h.cmd
  value := g.value.trans h.value
  cw := g.cw.trans h.cw
  wign := g.wign.trans h.wign
  mode := g.mode.trans h.mode
  rst := g.rst.trans h.rst
  bus := g.bus.trans h.bus
  host := g.host.trans h.host
  ends := g.ends.imp (fun ⟨a, b, c⟩ => ⟨a.trans e.1, b.trans e.2.1, c.trans e.2.2⟩) id

/-- The session ends: what was kept before is kept. -/
theorem AnswerKeeps.raise {s t : State} (e : ErrKind) (h : AnswerKeeps s t) : AnswerKeeps s (raise e t) :=
  ⟨h.params, h.ie, h.mchk, h.cmd, h.value, h.cw, h.wign, h.mode, h.rst, h.bus, h.host, .inr ⟨rfl, rfl⟩⟩

theorem decodePayload_keeps (k : Nat) (s : State) : AnswerKeeps s (decodePayload k s) := by
  unfold decodePayload; split
  · exact ⟨rfl, rfl, rfl, rfl, rfl, rfl, rfl, rfl, rfl, rfl, rfl, .inl ⟨rfl, rfl, rfl⟩⟩
  · exact ⟨rfl, rfl, rfl, rfl, rfl, rfl, rfl, rfl, rfl, rfl, rfl, .inr ⟨rfl, rfl⟩⟩

theorem decodeExt_keeps (k : Nat) (s : State) : AnswerKeeps s (decodeExt k s) := by
  unfold decodeExt; split
  · exact ⟨rfl, rfl, rfl, rfl, rfl, rfl, rfl, rfl, rfl, rfl, rfl, .inl ⟨rfl, rfl, rfl⟩⟩
  · exact ⟨rfl, rfl, rfl, rfl, rfl, rfl, rfl, rfl, rfl, rfl, rfl, .inl ⟨rfl, rfl, rfl⟩⟩

/-- The marker phase reads on, or compares: a FormatError or the extension-length field. -/
theorem decodeMarker_cases (k : Nat) (s : State) :
    (k < s.params.markerLen.val ∧ decodeMarker k s = startGroup (.marker k) s) ∨
    (s.params.markerLen.val ≤ k ∧ s.session.mchkL = true ∧ markerMatches s.params s.dmarker = false ∧
      decodeMarker k s = raise .formatError { s with status := { s.status with mmatch := false } }) ∨
    (s.params.markerLen.val ≤ k ∧ (s.session.mchkL = false ∨ markerMatches s.params s.dmarker = true) ∧
      decodeMarker k s = startGroup .extLen (setPhase .markerDone
        { s with status := { s.status with mmatch := markerMatches s.params s.dmarker } })) := by
  by_cases hk : k < s.params.markerLen.val
  · exact .inl ⟨hk, if_pos hk⟩
  · have hc : decodeMarker k s = decodeMarkerCheck s := if_neg hk
    rw [hc]
    unfold decodeMarkerCheck
    cases hm : markerMatches s.params s.dmarker <;> cases hl : s.session.mchkL
    · exact .inr (.inr ⟨by omega, .inl rfl, rfl⟩)
    · exact .inr (.inl ⟨by omega, rfl, rfl, rfl⟩)
    · exact .inr (.inr ⟨by omega, .inl rfl, rfl⟩)
    · exact .inr (.inr ⟨by omega, .inr rfl, rfl⟩)

theorem decodeMarker_keeps (k : Nat) (s : State) : AnswerKeeps s (decodeMarker k s) := by
  obtain ⟨-, h⟩ | ⟨-, -, -, h⟩ | ⟨-, -, h⟩ := decodeMarker_cases k s <;> rw [h]
  · exact ⟨rfl, rfl, rfl, rfl, rfl, rfl, rfl, rfl, rfl, rfl, rfl, .inl ⟨rfl, rfl, rfl⟩⟩
  · exact ⟨rfl, rfl, rfl, rfl, rfl, rfl, rfl, rfl, rfl, rfl, rfl, .inr ⟨rfl, rfl⟩⟩
  · exact ⟨rfl, rfl, rfl, rfl, rfl, rfl, rfl, rfl, rfl, rfl, rfl, .inl ⟨rfl, rfl, rfl⟩⟩

theorem encodePayload_keeps (k : Nat) (s : State) : AnswerKeeps s (encodePayload k s) := by
  unfold encodePayload; split
  · exact ⟨rfl, rfl, rfl, rfl, rfl, rfl, rfl, rfl, rfl, rfl, rfl, .inl ⟨rfl, rfl, rfl⟩⟩
  · exact ⟨rfl, rfl, rfl, rfl, rfl, rfl, rfl, rfl, rfl, rfl, rfl, .inl ⟨rfl, rfl, rfl⟩⟩

theorem encodeExt_keeps (k : Nat) (s : State) : AnswerKeeps s (encodeExt k s) := by
  unfold encodeExt; split
  · exact ⟨rfl, rfl, rfl, rfl, rfl, rfl, rfl, rfl, rfl, rfl, rfl, .inl ⟨rfl, rfl, rfl⟩⟩
  · exact ⟨rfl, rfl, rfl, rfl, rfl, rfl, rfl, rfl, rfl, rfl, rfl, .inl ⟨rfl, rfl, rfl⟩⟩

theorem encodeMarker_keeps (k : Nat) (s : State) : AnswerKeeps s (encodeMarker k s) := by
  unfold encodeMarker; split
  · exact ⟨rfl, rfl, rfl, rfl, rfl, rfl, rfl, rfl, rfl, rfl, rfl, .inl ⟨rfl, rfl, rfl⟩⟩
  · exact ⟨rfl, rfl, rfl, rfl, rfl, rfl, rfl, rfl, rfl, rfl, rfl, .inl ⟨rfl, rfl, rfl⟩⟩

/-- A phase ends and the next one starts: what both keep is kept. -/
theorem setPhase_keeps (p : Phase) (s : State) : AnswerKeeps s (setPhase p s) :=
  ⟨rfl, rfl, rfl, rfl, rfl, rfl, rfl, rfl, rfl, rfl, rfl, .inl ⟨rfl, rfl, rfl⟩⟩

theorem encodeAfter_keeps (f : Field) (s : State) : AnswerKeeps s (encodeAfter f s) := by
  cases f with
  | marker k => exact encodeMarker_keeps _ s
  | extLen => exact (setPhase_keeps _ s).trans (encodeExt_keeps 0 _) ⟨rfl, rfl, rfl⟩
  | ext k => exact encodeExt_keeps _ s
  | payloadLen => exact (setPhase_keeps _ s).trans (encodePayload_keeps 0 _) ⟨rfl, rfl, rfl⟩
  | payload k => exact encodePayload_keeps _ s

theorem encodePreflight_keeps (s : State) : AnswerKeeps s (encodePreflight s) := by
  have h : AnswerKeeps s (loadRequired s.session.el s.session.pl (loadCapacity s)) :=
    ⟨rfl, rfl, rfl, rfl, rfl, rfl, rfl, rfl, rfl, rfl, rfl, .inl ⟨rfl, rfl, rfl⟩⟩
  unfold encodePreflight; dsimp only; split
  · exact ⟨h.params, h.ie, h.mchk, h.cmd, h.value, h.cw, h.wign, h.mode, h.rst, h.bus, h.host, h.ends⟩
  · exact h.raise _

theorem decodeHeaderDone_keeps (s : State) : AnswerKeeps s (decodeHeaderDone s) := by
  have h : AnswerKeeps s (setPhase .headerDone (loadCapacity s)) :=
    ⟨rfl, rfl, rfl, rfl, rfl, rfl, rfl, rfl, rfl, rfl, rfl, .inl ⟨rfl, rfl, rfl⟩⟩
  exact h.trans (decodeMarker_keeps 0 _) ⟨rfl, rfl, rfl⟩

theorem decodeExtLen_keeps (s : State) : AnswerKeeps s (decodeExtLen s) := by
  have h : AnswerKeeps s
      { s with extLen := decodeInt32 s.session.group,
               session := { s.session with el := decodeInt32 s.session.group } } :=
    ⟨rfl, rfl, rfl, rfl, rfl, rfl, rfl, rfl, rfl, rfl, rfl, .inl ⟨rfl, rfl, rfl⟩⟩
  unfold decodeExtLen; dsimp only; split
  · exact (h.trans (setPhase_keeps _ _) ⟨rfl, rfl, rfl⟩).trans (decodeExt_keeps 0 _) ⟨rfl, rfl, rfl⟩
  · exact h.raise _

theorem decodePayloadLen_keeps (s : State) : AnswerKeeps s (decodePayloadLen s) := by
  have h : AnswerKeeps s
      { s with payloadLen := decodeInt32 s.session.group,
               session := { s.session with pl := decodeInt32 s.session.group } } :=
    ⟨rfl, rfl, rfl, rfl, rfl, rfl, rfl, rfl, rfl, rfl, rfl, .inl ⟨rfl, rfl, rfl⟩⟩
  unfold decodePayloadLen; dsimp only; split
  · exact (h.trans (setPhase_keeps _ _) ⟨rfl, rfl, rfl⟩).trans (decodePayload_keeps 0 _) ⟨rfl, rfl, rfl⟩
  · exact h.raise _

theorem decodeGroup_keeps (f : Field) (s : State) : AnswerKeeps s (decodeGroup f s) := by
  cases f with
  | marker k =>
    have h : AnswerKeeps s { s with dmarker := setByte s.dmarker k (decodeByte (first8 s.session.group)) } :=
      ⟨rfl, rfl, rfl, rfl, rfl, rfl, rfl, rfl, rfl, rfl, rfl, .inl ⟨rfl, rfl, rfl⟩⟩
    exact h.trans (decodeMarker_keeps _ _) ⟨rfl, rfl, rfl⟩
  | extLen => exact decodeExtLen_keeps s
  | ext k =>
    have h : AnswerKeeps s { s with ext := setByte s.ext k (decodeByte (first8 s.session.group)) } :=
      ⟨rfl, rfl, rfl, rfl, rfl, rfl, rfl, rfl, rfl, rfl, rfl, .inl ⟨rfl, rfl, rfl⟩⟩
    exact h.trans (decodeExt_keeps _ _) ⟨rfl, rfl, rfl⟩
  | payloadLen => exact decodePayloadLen_keeps s
  | payload k => exact ⟨rfl, rfl, rfl, rfl, rfl, rfl, rfl, rfl, rfl, rfl, rfl, .inl ⟨rfl, rfl, rfl⟩⟩

theorem readHeader_keeps {after : State → State} (ha : ∀ s, AnswerKeeps s (after s)) (k : Fin 54) (r : ReadResult)
    (s : State) : AnswerKeeps s (readHeader after k r s) := by
  have hb : ∀ b, AnswerKeeps s (storeHeader k b (cinReceived b s)) := fun b =>
    ⟨rfl, rfl, rfl, rfl, rfl, rfl, rfl, rfl, rfl, rfl, rfl, .inl ⟨rfl, rfl, rfl⟩⟩
  obtain ⟨e, he, -⟩ | ⟨b, -, ⟨-, -, he⟩ | ⟨-, _, he⟩ | ⟨-, he⟩⟩ := readHeader_cases after k r s <;> rw [he]
  · exact (AnswerKeeps.rfl' s).raise _
  · exact (hb b).raise _
  · exact ⟨rfl, rfl, rfl, rfl, rfl, rfl, rfl, rfl, rfl, rfl, rfl, .inl ⟨rfl, rfl, rfl⟩⟩
  · have hd : AnswerKeeps s (loadDimensions (storeHeader k b (cinReceived b s))) :=
      ⟨rfl, rfl, rfl, rfl, rfl, rfl, rfl, rfl, rfl, rfl, rfl, .inl ⟨rfl, rfl, rfl⟩⟩
    exact hd.trans (ha _) ⟨rfl, rfl, rfl⟩

theorem readGroup_keeps {after : Field → State → State} (ha : ∀ f s, AnswerKeeps s (after f s)) (f : Field) (k : Fin 32)
    (r : ReadResult) (s : State) : AnswerKeeps s (readGroup after f k r s) := by
  have hb : ∀ b, AnswerKeeps s (storeGroup k b (cinReceived b s)) := fun b =>
    ⟨rfl, rfl, rfl, rfl, rfl, rfl, rfl, rfl, rfl, rfl, rfl, .inl ⟨rfl, rfl, rfl⟩⟩
  obtain ⟨he, -⟩ | ⟨b, -, ⟨_, _, he⟩ | ⟨-, he⟩⟩ := readGroup_cases after f k r s <;> rw [he]
  · exact (AnswerKeeps.rfl' s).raise _
  · exact ⟨rfl, rfl, rfl, rfl, rfl, rfl, rfl, rfl, rfl, rfl, rfl, .inl ⟨rfl, rfl, rfl⟩⟩
  · exact (hb b).trans (ha f _) ⟨rfl, rfl, rfl⟩

theorem encodeGroup_keeps (f : Field) (s : State) : AnswerKeeps s (encodeGroup f s) :=
  ⟨rfl, rfl, rfl, rfl, rfl, rfl, rfl, rfl, rfl, rfl, rfl, .inl ⟨rfl, rfl, rfl⟩⟩

/-- Everything a read answer keeps. -/
theorem answerRead_keeps {r : ReadResult} {s t : State} (h : answerRead r s = .next t) : AnswerKeeps s t := by
  unfold answerRead at h
  split at h
  · cases h
  · split at h <;> cases h
    · exact readHeader_keeps encodePreflight_keeps _ r s
    · exact readGroup_keeps encodeGroup_keeps _ _ r s
    · cases r with
      | byte b => exact ⟨rfl, rfl, rfl, rfl, rfl, rfl, rfl, rfl, rfl, rfl, rfl, .inl ⟨rfl, rfl, rfl⟩⟩
      | endOfStream => exact (AnswerKeeps.rfl' s).raise _
      | err => exact (AnswerKeeps.rfl' s).raise _
    · cases r with
      | byte b => exact ⟨rfl, rfl, rfl, rfl, rfl, rfl, rfl, rfl, rfl, rfl, rfl, .inl ⟨rfl, rfl, rfl⟩⟩
      | endOfStream => exact ((setPhase_keeps .tailCopied s).trans (setPhase_keeps .done _) ⟨rfl, rfl, rfl⟩).raise .none
      | err => exact (AnswerKeeps.rfl' s).raise _
  · split at h <;> cases h
    · exact readHeader_keeps decodeHeaderDone_keeps _ r s
    · exact readGroup_keeps decodeGroup_keeps _ _ r s

/-- Everything a write answer keeps. -/
theorem answerWrite_keeps {w : WriteResult} {s t : State} (h : answerWrite w s = .next t) : AnswerKeeps s t := by
  have hp : ∀ b, AnswerKeeps s (poutDelivered b s) := fun b =>
    ⟨rfl, rfl, rfl, rfl, rfl, rfl, rfl, rfl, rfl, rfl, rfl, .inl ⟨rfl, rfl, rfl⟩⟩
  have ho : ∀ b, AnswerKeeps s (coutDelivered b s) := fun b =>
    ⟨rfl, rfl, rfl, rfl, rfl, rfl, rfl, rfl, rfl, rfl, rfl, .inl ⟨rfl, rfl, rfl⟩⟩
  unfold answerWrite at h
  split at h
  · cases h
  · split at h <;> cases h <;> cases w
    case h_1.refl.ok k _ =>
      simp only [encodeHeaderOut]; split
      · exact ⟨rfl, rfl, rfl, rfl, rfl, rfl, rfl, rfl, rfl, rfl, rfl, .inl ⟨rfl, rfl, rfl⟩⟩
      · exact ((ho _).trans (setPhase_keeps .headerDone _) ⟨rfl, rfl, rfl⟩).trans (encodeMarker_keeps 0 _) ⟨rfl, rfl, rfl⟩
    case h_2.refl.ok f k _ =>
      simp only [encodeEmit]; split
      · exact ⟨rfl, rfl, rfl, rfl, rfl, rfl, rfl, rfl, rfl, rfl, rfl, .inl ⟨rfl, rfl, rfl⟩⟩
      · exact (ho _).trans (encodeAfter_keeps f _) ⟨rfl, rfl, rfl⟩
    case h_3.refl.ok b _ => exact ⟨rfl, rfl, rfl, rfl, rfl, rfl, rfl, rfl, rfl, rfl, rfl, .inl ⟨rfl, rfl, rfl⟩⟩
    all_goals exact (AnswerKeeps.rfl' s).raise _
  · split at h <;> cases h
    cases w with
    | ok => exact (hp _).trans (decodePayload_keeps _ _) ⟨rfl, rfl, rfl⟩
    | err => exact (AnswerKeeps.rfl' s).raise _

/-! ### What goes on without an error -/

theorem decodePayload_err (k : Nat) {s : State} (h : s.status.err = .none) : (decodePayload k s).status.err = .none := by
  unfold decodePayload; split
  · exact h
  · rfl

theorem decodeExt_err (k : Nat) {s : State} (h : s.status.err = .none) : (decodeExt k s).status.err = .none := by
  unfold decodeExt; split <;> exact h

theorem encodePayload_err (k : Nat) {s : State} (h : s.status.err = .none) : (encodePayload k s).status.err = .none := by
  unfold encodePayload; split <;> exact h

theorem encodeExt_err (k : Nat) {s : State} (h : s.status.err = .none) : (encodeExt k s).status.err = .none := by
  unfold encodeExt; split <;> exact h

theorem encodeMarker_err (k : Nat) {s : State} (h : s.status.err = .none) : (encodeMarker k s).status.err = .none := by
  unfold encodeMarker; split <;> exact h

theorem encodeAfter_err (f : Field) {s : State} (h : s.status.err = .none) : (encodeAfter f s).status.err = .none := by
  cases f
  · exact encodeMarker_err _ h
  · exact encodeExt_err _ h
  · exact encodeExt_err _ h
  · exact encodePayload_err _ h
  · exact encodePayload_err _ h

/-- R215: with no marker byte nothing can differ, so the end of DECODE's header raises nothing. -/
theorem decodeHeaderDone_err {s : State} (h : s.status.err = .none) : (decodeHeaderDone s).status.err = .none := by
  unfold decodeHeaderDone
  obtain ⟨-, e⟩ | ⟨h0, -, hm, -⟩ | ⟨-, -, e⟩ := decodeMarker_cases 0 (setPhase .headerDone (loadCapacity s))
  · rw [e]; exact h
  · unfold markerMatches at hm
    rw [Nat.le_zero.mp h0] at hm
    simp at hm
  · rw [e]; exact h

end Sys2Proof.Machine
end

