-- ==== Sys2Proof/Laws/Frame.lean ====
section
/-! SUPPORT. The frame as a function of the carrier offset (20_memory.md rule R82): where each field starts, which bit each
offset of a field carries, and how the stego image of a carrier grows byte by byte. -/

namespace Sys2Proof.Machine

/-! ### Where the fields start -/

@[simp] theorem fieldStart_marker (p : Params) (el k : Nat) : fieldStart p el (.marker k) = 54 + 8 * k := rfl
@[simp] theorem fieldStart_extLen (p : Params) (el : Nat) : fieldStart p el .extLen = 54 + 8 * p.markerLen.val := rfl
@[simp] theorem fieldStart_ext (p : Params) (el k : Nat) :
    fieldStart p el (.ext k) = 54 + 8 * p.markerLen.val + 32 + 8 * k := rfl
@[simp] theorem fieldStart_payloadLen (p : Params) (el : Nat) :
    fieldStart p el .payloadLen = 54 + 8 * (p.markerLen.val + el) + 32 := rfl
@[simp] theorem fieldStart_payload (p : Params) (el k : Nat) :
    fieldStart p el (.payload k) = 54 + 8 * (p.markerLen.val + el + k) + 64 := rfl

theorem groupSize_pos (f : Field) : 0 < groupSize f := by cases f <;> simp [groupSize]

/-! ### The bit at an offset -/

variable (p : Params) (el ext pl : Word) (sin : List Byte)

theorem frameBit_header {off : Nat} (h : off < 54) : frameBit p el ext pl sin off = none := if_pos h

theorem frameBit_marker {k j : Nat} (hk : k < p.markerLen.val) (hj : j < 8) :
    frameBit p el ext pl sin (54 + 8 * k + j) = some ((byteOf p.marker k).getMsbD j) := by
  unfold frameBit
  rw [if_neg (by omega), if_pos (by rw [fieldStart_extLen]; omega), show (54 + 8 * k + j - 54) / 8 = k by omega,
    show (54 + 8 * k + j - 54) % 8 = j by omega]

theorem frameBit_extLen {j : Nat} (hj : j < 32) :
    frameBit p el ext pl sin (54 + 8 * p.markerLen.val + j) = some (el.getMsbD j) := by
  unfold frameBit
  rw [if_neg (by omega), if_neg (by rw [fieldStart_extLen]; omega), if_pos (by rw [fieldStart_ext]; omega),
    fieldStart_extLen, Nat.add_sub_cancel_left]

theorem frameBit_ext {k j : Nat} (hk : k < el.toNat) (hj : j < 8) :
    frameBit p el ext pl sin (54 + 8 * p.markerLen.val + 32 + 8 * k + j) = some ((byteOf ext k).getMsbD j) := by
  unfold frameBit
  rw [if_neg (by omega), if_neg (by rw [fieldStart_extLen]; omega), if_neg (by rw [fieldStart_ext]; omega),
    if_pos (by rw [fieldStart_payloadLen]; omega), fieldStart_ext,
    show (54 + 8 * p.markerLen.val + 32 + 8 * k + j - (54 + 8 * p.markerLen.val + 32 + 8 * 0)) / 8 = k by omega,
    show (54 + 8 * p.markerLen.val + 32 + 8 * k + j - (54 + 8 * p.markerLen.val + 32 + 8 * 0)) % 8 = j by omega]

theorem frameBit_payloadLen {j : Nat} (hj : j < 32) :
    frameBit p el ext pl sin (54 + 8 * (p.markerLen.val + el.toNat) + 32 + j) = some (pl.getMsbD j) := by
  unfold frameBit
  rw [if_neg (by omega), if_neg (by rw [fieldStart_extLen]; omega), if_neg (by rw [fieldStart_ext]; omega),
    if_neg (by rw [fieldStart_payloadLen]; omega), if_pos (by rw [fieldStart_payload]; omega), fieldStart_payloadLen,
    Nat.add_sub_cancel_left]

theorem frameBit_after {off : Nat} (h : fieldStart p el.toNat (.payload 0) ≤ off) :
    frameBit p el ext pl sin off = (sin[(off - fieldStart p el.toNat (.payload 0)) / 8]?).map fun b =>
      b.getMsbD ((off - fieldStart p el.toNat (.payload 0)) % 8) := by
  rw [fieldStart_payload] at h
  unfold frameBit
  rw [if_neg (by omega), if_neg (by rw [fieldStart_extLen]; omega), if_neg (by rw [fieldStart_ext]; omega),
    if_neg (by rw [fieldStart_payloadLen]; omega), if_neg (by rw [fieldStart_payload]; omega)]

theorem frameBit_payload {k j : Nat} (hj : j < 8) :
    frameBit p el ext pl sin (54 + 8 * (p.markerLen.val + el.toNat + k) + 64 + j) =
      (sin[k]?).map fun b => b.getMsbD j := by
  rw [frameBit_after _ _ _ _ _ (by rw [fieldStart_payload]; omega), fieldStart_payload,
    show (54 + 8 * (p.markerLen.val + el.toNat + k) + 64 + j - (54 + 8 * (p.markerLen.val + el.toNat + 0) + 64)) / 8 = k
      by omega,
    show (54 + 8 * (p.markerLen.val + el.toNat + k) + 64 + j - (54 + 8 * (p.markerLen.val + el.toNat + 0) + 64)) % 8 = j
      by omega]

/-- Past the last payload byte there is no frame bit: the tail is copied. -/
theorem frameBit_tail {off : Nat} (h : fieldStart p el.toNat (.payload sin.length) ≤ off) :
    frameBit p el ext pl sin off = none := by
  rw [fieldStart_payload] at h
  rw [frameBit_after _ _ _ _ _ (by rw [fieldStart_payload]; omega), fieldStart_payload,
    List.getElem?_eq_none (by omega)]
  rfl

/-- A further payload byte changes no bit before its own group. -/
theorem frameBit_append (b : Byte) {off : Nat} (h : off < fieldStart p el.toNat (.payload sin.length)) :
    frameBit p el ext pl (sin ++ [b]) off = frameBit p el ext pl sin off := by
  rw [fieldStart_payload] at h
  by_cases h0 : fieldStart p el.toNat (.payload 0) ≤ off
  · rw [frameBit_after _ _ _ _ _ h0, frameBit_after _ _ _ _ _ h0, List.getElem?_append_left]
    rw [fieldStart_payload] at h0 ⊢
    omega
  · unfold frameBit
    congr 4
    rw [if_pos (by omega), if_pos (by omega)]

/-! ### The bytes of a buffer -/

theorem headerByte_set (h : Vector Byte 54) (k : Fin 54) (b : Byte) {j : Nat} (hj : j < 54) :
    headerByte (h.set k.val b) j = if j = k.val then b else headerByte h j := by
  simp [headerByte, hj, Vector.get_eq_getElem, Vector.getElem_set, eq_comm]

theorem groupByte_set (g : Vector Byte 32) (k : Fin 32) (b : Byte) {j : Nat} (hj : j < 32) :
    groupByte (g.set k.val b) j = if j = k.val then b else groupByte g j := by
  simp [groupByte, hj, Vector.get_eq_getElem, Vector.getElem_set, eq_comm]

/-! ### The growing stego image -/

variable {p el ext pl sin}

/-- A further carrier byte leaves what was delivered a stego image. -/
theorem IsStego.carrier_append {carrier out : List Byte} (b : Byte) (h : IsStego p el ext pl sin carrier out) :
    IsStego p el ext pl sin (carrier ++ [b]) out := by
  obtain ⟨hl, hb⟩ := h
  refine ⟨by simp; omega, fun j hj => ?_⟩
  rw [hb j hj, List.getElem?_append_left (by omega)]

/-- Delivering the stego byte of the next carrier byte. -/
theorem IsStego.out_append {carrier out : List Byte} (b : Byte) (h : IsStego p el ext pl sin carrier out)
    (hb : some b = (carrier[out.length]?).map (stegoByte p el ext pl sin out.length)) :
    IsStego p el ext pl sin carrier (out ++ [b]) := by
  have hl : out.length < carrier.length := by
    by_contra hn
    rw [List.getElem?_eq_none (by omega)] at hb
    cases hb
  refine ⟨by simp; omega, fun j hj => ?_⟩
  rw [List.length_append, List.length_singleton] at hj
  by_cases e : j = out.length
  · subst e
    simp [← hb]
  · rw [List.getElem?_append_left (by omega), h.2 j (by omega)]

/-- A further payload byte, before anything of its group is delivered. -/
theorem IsStego.payload_append {carrier out : List Byte} (b : Byte) (h : IsStego p el ext pl sin carrier out)
    (hl : out.length ≤ fieldStart p el.toNat (.payload sin.length)) :
    IsStego p el ext pl (sin ++ [b]) carrier out := by
  refine ⟨h.1, fun j hj => ?_⟩
  rw [h.2 j hj]
  congr 1
  funext c
  simp only [stegoByte]
  rw [frameBit_append _ _ _ _ _ _ (by omega)]

/-! ### Reading a field off a carrier -/

theorem byteAt_append (l : List Byte) (b : Byte) {off : Nat} (h : off + 8 ≤ l.length) :
    byteAt (l ++ [b]) off = byteAt l off := by
  unfold byteAt
  congr 2
  funext k
  rw [List.getD_append _ _ _ _ (by have := k.isLt; omega)]

theorem wordAt_append (l : List Byte) (b : Byte) {off : Nat} (h : off + 32 ≤ l.length) :
    wordAt (l ++ [b]) off = wordAt l off := by
  unfold wordAt
  congr 2
  funext k
  rw [List.getD_append _ _ _ _ (by have := k.isLt; omega)]

/-- A full byte group decodes to the byte at its place in the carrier. -/
theorem decodeByte_group (l : List Byte) (g : Vector Byte 32) (off : Nat)
    (h : ∀ j, j < 8 → l[off + j]? = some (groupByte g j)) : decodeByte (first8 g) = byteAt l off := by
  unfold byteAt
  congr 1
  apply vector_ext_get
  intro k
  have := h k.val k.isLt
  rw [first8_get]
  simp [Vector.get_eq_getElem, List.getD_eq_getElem?_getD, this, groupByte, show k.val < 32 by omega]

/-- A full 32-bit group decodes to the word at its place in the carrier. -/
theorem decodeInt32_group (l : List Byte) (g : Vector Byte 32) (off : Nat)
    (h : ∀ j, j < 32 → l[off + j]? = some (groupByte g j)) : decodeInt32 g = wordAt l off := by
  refine congrArg decodeInt32 (vector_ext_get fun k => ?_)
  have := h k.val k.isLt
  simp [Vector.get_eq_getElem, List.getD_eq_getElem?_getD, this, groupByte]

/-- What DECODE has decoded rests on the parameters, the carrier, the result registers and POUT alone. -/
theorem DecodedUpTo.congr {s t : State} {f : Field} (h : DecodedUpTo s f) (h1 : t.params = s.params)
    (h2 : t.cin = s.cin) (h3 : t.dmarker = s.dmarker) (h4 : t.extLen = s.extLen) (h5 : t.ext = s.ext)
    (h6 : t.payloadLen = s.payloadLen) (h7 : t.pout = s.pout) : DecodedUpTo t f := by
  obtain ⟨a, b, c, d, e, g, i, j, k, l⟩ := h
  rw [← h1, ← h3] at b
  rw [← h1, ← h2, ← h3] at a
  rw [← h1, ← h2, ← h4] at c
  rw [← h4] at d
  rw [← h1, ← h2, ← h4, ← h5] at e
  rw [← h4, ← h5] at g
  rw [← h1, ← h2, ← h4, ← h6] at i
  rw [← h6] at j
  rw [← h7] at k
  rw [← h1, ← h2, ← h4, ← h7] at l
  exact ⟨a, b, c, d, e, g, i, j, k, l⟩

end Sys2Proof.Machine
end

