-- ==== Sys2Proof/Laws/PerInstr.lean ====
section
/-! SUPPORT. The family `Encoding` of per-instruction statements: what the encoding of a command is, said of the command as
syntax. -/

namespace Sys2Proof.Laws.Encoding

/-- The word of a command is well formed: `RSV` is 0 and `OP` is one of the eight values (30_encoding.md rules R100, R103). -/
def Statement (i : Instr) : Prop := i.wf = true ∧ (cmdFields (encode i)).wf = true

theorem nop : Statement .nop := by unfold Statement; decide
theorem encb : Statement .encb := by unfold Statement; decide
theorem decb : Statement .decb := by unfold Statement; decide
theorem encw : Statement .encw := by unfold Statement; decide
theorem decw : Statement .decw := by unfold Statement; decide
theorem capchk : Statement .capchk := by unfold Statement; decide
theorem encode : Statement .encode := by unfold Statement; decide
theorem decode : Statement .decode := by unfold Statement; decide

end Sys2Proof.Laws.Encoding
end

