-- ==== Sys2Proof/Tests/Slice0.lean ====
section
/-! SUPPORT. Tests of single steps against the vectors of 95_test_vectors.md and the examples of the rules, the words of the
encoding written out bit by bit, and for each statement with hypotheses a state that meets them. -/

namespace Sys2Proof.Tests

open Sys2Proof.Machine

/-! ### Small states -/

/-- The state a step ends in; a stop gives `State.reset` with an impossible status. -/
def after (o : Host.Outcome State Fault Refusal) : State :=
  match o with
  | .next s => s
  | .fault _ | .refused _ => { State.reset with status := { Status.reset with busy := true, done := true } }

/-- The block after reset with one move to come. -/
def withMove (e : HostEvent) : State := { State.reset with host := [e] }

/-- A running session at a point, with one move to come. -/
def running (k : Kind) (c : Cont) (e : HostEvent) : State :=
  { State.reset with
    status := { Status.reset with busy := true, mode := k == .decode },
    session := { Session.idle with kind := k, cont := c }, host := [e] }

/-- A carrier window from its first eight bytes, the others 0. -/
def window (c : Vector Byte 8) : Vector Byte 32 := putFirst8 (Vector.replicate 32 0) c

/-! ### Well-formedness: each check refuses an ill-formed term (30_encoding.md rules R100, R103) -/

theorem test_wf_rsv_refused : CmdFields.wf { op := 0x11, rsv := 1 } = false := by decide
theorem test_wf_op_refused : CmdFields.wf { op := 0x06, rsv := 0 } = false := by decide
theorem test_wf_op_top_refused : CmdFields.wf { op := 0xFF, rsv := 0 } = false := by decide
theorem test_wf_accepted : CmdFields.wf { op := 0x11, rsv := 0 } = true := by decide

/-! ### Decoding: the word of each command, bit by bit from R103 -/

theorem test_decode_nop : decodeCmd 0b00000000000000000000000000000000 = .command .nop := by decide
theorem test_decode_encb : decodeCmd 0b00000000000000000000000000000001 = .command .encb := by decide
theorem test_decode_decb : decodeCmd 0b00000000000000000000000000000010 = .command .decb := by decide
theorem test_decode_encw : decodeCmd 0b00000000000000000000000000000011 = .command .encw := by decide
theorem test_decode_decw : decodeCmd 0b00000000000000000000000000000100 = .command .decw := by decide
theorem test_decode_capchk : decodeCmd 0b00000000000000000000000000000101 = .command .capchk := by decide
theorem test_decode_encode : decodeCmd 0b00000000000000000000000000010000 = .command .encode := by decide
theorem test_decode_decode : decodeCmd 0b00000000000000000000000000010001 = .command .decode := by decide

/-- Vectors C-3 to C-6. -/
theorem test_decode_illegal :
    decodeCmd 0x00000006 = .illegal .undefinedOp ∧ decodeCmd 0x0000000F = .illegal .undefinedOp ∧
    decodeCmd 0x00000012 = .illegal .undefinedOp ∧ decodeCmd 0x00000111 = .illegal .reservedBits ∧
    decodeCmd 0x80000010 = .illegal .reservedBits := by decide

/-- The host's numbering: the row's one word, and a row cut to 8 bits with zeros above. -/
theorem test_table_word :
    decodeTableWord 32 0x11 = some .decode ∧ decodeTableWord 8 0x10 = some .encode ∧
    decodeTableWord 32 0x111 = none ∧ decodeTableWord 40 0x11 = none := by decide

/-- A placed word runs as the first command after reset. -/
theorem test_placed_word : (after (step (State.reset.withFetchWord 32 0x11))).session.kind = .decode := by decide

/-! ### The command frame and the bus (vectors of section 2.3) -/

/-- C-2: NOP clears `ERR` and `WIGN`. -/
theorem test_nop_clears :
    (after (exec .nop { State.reset with status := { Status.reset with wign := true, err := .capacityError } })).status.word =
      0x00000002 := by decide

/-- C-4: an illegal word completes with CommandError and reads back. -/
theorem test_illegal_word :
    readRegister 0x0C (after (step (withMove (.regWrite 0x08 0xF 0x00000111)))) = 0x00000502 ∧
    readRegister 0x08 (after (step (withMove (.regWrite 0x08 0xF 0x00000111)))) = 0x00000111 := by decide

/-- C-15: `CTRL` stores its defined fields only. -/
theorem test_ctrl_reserved :
    readRegister 0x04 (after (step (withMove (.regWrite 0x04 0xF 0xFFFFFFFF)))) = 0x00000005 := by decide

/-- C-11: an unaligned write is a `BusError` and changes nothing. -/
theorem test_unaligned :
    (after (step (withMove (.regWrite 0x09 0xF 1)))).bus = some .busError ∧
    (after (step (withMove (.regWrite 0x09 0xF 1)))).cmd = 0 := by decide

/-- C-16: the constants at the default parameters. -/
theorem test_constants :
    readRegister 0x00 State.reset = 0x4C534201 ∧ readRegister 0x40 State.reset = 0x00000402 ∧
    readRegister 0x3C State.reset = 0x00002A23 ∧ readRegister 0x44 State.reset = 0xFFFFFFFF := by decide

/-- C-12, C-13: while a session runs a data write and a command are ignored and set `WIGN`. -/
theorem test_busy_ignores :
    (after (step (running .encode (.header 1) (.regWrite 0x1C 0xF 4)))).extLen = 0 ∧
    (after (step (running .encode (.header 1) (.regWrite 0x08 0xF 0x11)))).status.wign = true ∧
    (after (step (running .encode (.header 1) (.regWrite 0x08 0xF 0x11)))).cmd = 0 := by decide

/-- R40: `CW[4]` is the low byte of `CWIN1`. -/
theorem test_window_byte :
    ((after (step (withMove (.regWrite 0x64 0xF 0x01FE8180)))).cw.get 4) = 0x80 ∧
    ((after (step (withMove (.regWrite 0x64 0xF 0x01FE8180)))).cw.get 7) = 0x01 := by decide

/-- R241, R244: `Err` in the tail of ENCODE is reported as code 3 in bits 11:8, beside `DONE`. -/
theorem test_ioError_code :
    (readRegister 0x0C (after (step (running .encode .tail (.readAnswer .err))))) = 0x00000302 := by decide

/-- R270: reset abandons a session and clears the registers. -/
theorem test_reset :
    (after (step { running .encode .tail .rstAssert with value := 7 })).status.word = 0 ∧
    (after (step { running .encode .tail .rstAssert with value := 7 })).value = 0 := by decide

/-! ### The primitive commands (vectors of sections 2.1 and 2.2) -/

/-- B1. -/
theorem test_encb_b1 :
    (after (exec .encb { State.reset with
      value := 0xA5, cw := window #v[0xFF, 0x00, 0x12, 0x13, 0x80, 0x81, 0xFE, 0x01] })).cw =
      window #v[0xFF, 0x00, 0x13, 0x12, 0x80, 0x81, 0xFE, 0x01] := by decide

/-- B6 with the low byte of `VALUE` only: `CW[0]` carries bit 7. -/
theorem test_encb_b6 :
    (after (exec .encb { State.reset with value := 0xFF80, cw := window (Vector.replicate 8 1) })).cw =
      window #v[1, 0, 0, 0, 0, 0, 0, 0] := by decide

/-- R148's example, over a stale `VALUE`. -/
theorem test_decb :
    (after (exec .decb { State.reset with
      value := 0xFFFFFFFF, cw := window #v[0xFF, 0x00, 0x13, 0x12, 0x80, 0x81, 0xFE, 0x01] })).value = 0xA5 := by decide

/-- W-1, the first and the last window register. -/
theorem test_encw_w1 :
    cwinRead (after (exec .encw { State.reset with value := 0x12345678 })).cw 0 = 0x01000000 ∧
    cwinRead (after (exec .encw { State.reset with value := 0x12345678 })).cw 4 = 0x01000100 ∧
    cwinRead (after (exec .encw { State.reset with value := 0x12345678 })).cw 7 = 0x00000001 := by decide

/-- W-3's window: `CW[0]` holds bit 31 and `CW[31]` bit 0. -/
theorem test_decw_w3 :
    (after (exec .decw { State.reset with cw := (Vector.replicate 32 0x80 |>.set 0 0x81).set 31 0x01 })).value =
      0x80000001 := by decide

/-- K-10: nothing wraps. -/
theorem test_capchk_k10 :
    let t := after (exec .capchk { State.reset with
      width := 0xFFFFFFFF, height := 0xFFFFFFFF, extLen := 0xFFFFFFFF, payloadLen := 0xFFFFFFFF })
    readRegister 0x30 t = 0x2 ∧ readRegister 0x2C t = 0xFFFFFFFA ∧ readRegister 0x28 t = 0x3 ∧
    readRegister 0x38 t = 0x10 ∧ readRegister 0x34 t = 0x60 ∧ readRegister 0x0C t = 0x00000006 := by decide

/-- K-2: a fail. -/
theorem test_capchk_k2 :
    let t := after (exec .capchk { State.reset with width := 2, height := 2, extLen := 3, payloadLen := 5 })
    t.cap = 12 ∧ t.req = 176 ∧ readRegister 0x0C t = 0x00000202 := by decide

/-! ### The session commands, one step each -/

/-- E1: ArgumentError at acceptance. -/
theorem test_encode_argument_error :
    (after (exec .encode { State.reset with extLen := 5 })).status.word = 0x00000402 := by decide

/-- E1b: the boundary is accepted, and the first header byte is asked for. -/
theorem test_encode_boundary :
    (after (exec .encode { State.reset with extLen := 4 })).status.word = 0x00000001 ∧
    (after (exec .encode { State.reset with extLen := 4 })).pending = some .cinRead := by decide

/-- E3b: `4D 42` is no signature, and both bytes were read. -/
theorem test_encode_signature :
    let s := running .encode (.header 1) (.readAnswer (.byte 0x42))
    let t := after (step { s with cinPos := 1, session := { s.session with hdr := s.session.hdr.set 0 0x4D } })
    t.status.word = 0x00000102 ∧ t.cinPos = 2 := by decide

/-- R210: DECODE clears its results and latches `MCHK`. -/
theorem test_decode_start :
    let t := after (exec .decode { State.reset with extLen := 9, ext := 9, payloadLen := 9, dmarker := 9 })
    t.extLen = 0 ∧ t.ext = 0 ∧ t.payloadLen = 0 ∧ t.dmarker = 0 ∧ t.session.mchkL = true ∧
    t.status.word = 0x00010001 := by decide

/-- D7: 1x1 declared, the extension length 3 is above the remaining capacity of -45. -/
theorem test_decode_negative_remaining :
    let s := running .decode (.fill .extLen 31) (.readAnswer (.byte 1))
    let t := after (step { s with
      cap := 3, cinPos := 101, session := { s.session with group := s.session.group.set 30 1 },
      status := { s.status with phase := .markerDone, mmatch := true } })
    t.status.word = 0x00012112 ∧ t.extLen = 3 := by decide

/-! ### Witnesses of the statements' hypotheses -/

theorem witness_StepRunsDecodedCommand :
    let s := withMove (.regWrite 0x08 0xF 0x11)
    s.rst = false ∧ s.status.busy = false ∧ s.host = .regWrite 0x08 0xF 0x11 :: [] ∧
    decodeCmd 0x11 = .command .decode := by decide

theorem witness_IllegalWordIsCommandError :
    let s := withMove (.regWrite 0x08 0xF 0x06)
    s.rst = false ∧ s.status.busy = false ∧ s.host = .regWrite 0x08 0xF 0x06 :: [] ∧
    (0x06 : Word).extractLsb' 0 8 ∉ ([0x00, 0x01, 0x02, 0x03, 0x04, 0x05, 0x10, 0x11] : List (BitVec 8)) := by decide

/-- The other disjunct: `RSV` is not 0. -/
theorem witness_IllegalWordIsCommandError_rsv :
    let s := withMove (.regWrite 0x08 0xF 0x100)
    s.rst = false ∧ s.status.busy = false ∧ s.host = .regWrite 0x08 0xF 0x100 :: [] ∧
    (0x100 : Word).extractLsb' 8 24 ≠ 0 := by decide

theorem witness_WriteIgnoredFlag :
    let s := running .encode .tail (.regWrite 0x08 0xF 0)
    s.rst = false ∧ s.status.busy = true ∧ s.host = .regWrite 0x08 0xF 0 :: [] := by decide

theorem witness_WriteIgnoredFlag_data :
    let s := running .encode .tail (.regWrite 0x7C 0xF 0)
    s.rst = false ∧ s.status.busy = true ∧ s.host = .regWrite 0x7C 0xF 0 :: [] ∧ isRwData 0x7C = true := by decide

theorem witness_WriteIgnoredFlag_accept : exec .nop State.reset = .next (after (exec .nop State.reset)) := rfl

theorem witness_WriteIgnoredFlag_clear :
    let s := { withMove (.regWrite 0x08 0xF 0) with status := { Status.reset with wign := true } }
    step s = .next (after (step s)) ∧ s.status.wign = true ∧ (after (step s)).status.wign = false := ⟨rfl, rfl, rfl⟩

theorem witness_StatusValueLayout :
    let t := { PrimitiveStatus .none true with phase := .done }
    { State.reset with status := t }.status = t := rfl

theorem witness_StatusValueLayout_decode :
    let t := { PrimitiveStatus .none false with phase := .done, mmatch := true, mode := true }
    { State.reset with status := t }.status = t := rfl

theorem witness_ReadsHaveNoSideEffect :
    (withMove (.regRead 0x0C 0xF)).rst = false ∧ (withMove (.regRead 0x0C 0xF)).host = .regRead 0x0C 0xF :: [] := by decide

theorem witness_BusErrorChangesNothing :
    let s := withMove (.regWrite 0x0E 0xF 0)
    s.rst = false ∧ (0x0E : BitVec 8).toNat % 4 ≠ 0 ∧ ∃ v, s.host = .regWrite 0x0E 0xF v :: [] :=
  ⟨rfl, by decide, 0, rfl⟩

theorem witness_BusErrorChangesNothing_lanes :
    let s := withMove (.regRead 0x0C 0x3)
    s.rst = false ∧ (0x3 : BitVec 4) ≠ 0xF ∧ s.host = .regRead 0x0C 0x3 :: [] := by decide

theorem witness_ReservedReadsZero :
    let s := withMove (.regWrite 0x80 0xF 1)
    s.rst = false ∧ (0x80 : BitVec 8).toNat % 4 = 0 ∧ 0x80 ≤ (0x80 : BitVec 8).toNat ∧
    s.host = .regWrite 0x80 0xF 1 :: [] := by decide

theorem witness_ReservedReadsZero_ctrl :
    let s := withMove (.regWrite 0x04 0xF 0xFFFFFFFF)
    s.rst = false ∧ s.host = .regWrite 0x04 0xF 0xFFFFFFFF :: [] := by decide

theorem witness_DataWriteReadsBack :
    let s := withMove (.regWrite 0x7C 0xF 1)
    s.rst = false ∧ s.status.busy = false ∧ isRwData 0x7C = true ∧ s.host = .regWrite 0x7C 0xF 1 :: [] := by decide

theorem witness_ReadOnlyWriteIgnored :
    let s := withMove (.regWrite 0x5C 0xF 1)
    s.rst = false ∧ s.host = .regWrite 0x5C 0xF 1 :: [] ∧
    (0x5C : BitVec 8) ∈ ([0x00, 0x0C, 0x28, 0x2C, 0x30, 0x34, 0x38, 0x3C, 0x40, 0x44, 0x48, 0x4C, 0x50, 0x54, 0x58, 0x5C] :
      List (BitVec 8)) := by decide

theorem witness_InterruptLevel :
    let s := withMove (.regWrite 0x04 0xF 0x7)
    s.rst = false ∧ s.host = .regWrite 0x04 0xF 0x7 :: [] ∧ (0x7 : Word).getLsbD 1 = true := by decide

theorem witness_InterruptLevel_session :
    exec .decode State.reset = .next (after (exec .decode State.reset)) ∧
    (after (exec .decode State.reset)).status.busy = true := ⟨rfl, rfl⟩

theorem witness_WordIsFourBytes :
    (Vector.replicate 32 (7 : Byte)).toList =
      (Vector.replicate 8 (7 : Byte)).toList ++ (Vector.replicate 8 (7 : Byte)).toList ++
        (Vector.replicate 8 (7 : Byte)).toList ++ (Vector.replicate 8 (7 : Byte)).toList := by decide

theorem witness_PackThenUnpack :
    let t := after (exec .encw State.reset)
    exec .encw State.reset = .next t ∧ exec .decb t = .next (after (exec .decb t)) ∧
    exec .encb State.reset = .next (after (exec .encb State.reset)) ∧ exec .decw t = .next (after (exec .decw t)) :=
  ⟨rfl, rfl, rfl, rfl⟩

/-- Both sides of the check: 38x1 passes and 37x1 fails with nothing to hide (W5). -/
theorem witness_CapchkResult : 8 * (12 + 2 + 0 + 0) ≤ 38 * 1 * 3 ∧ 37 * 1 * 3 < 8 * (12 + 2 + 0 + 0) := by decide

theorem witness_CapacityMargin : hasCapacity 112 (requiredBits 2 0 0) = true := by decide

theorem witness_EncodeStarts :
    (State.reset.extLen.toNat ≤ State.reset.params.extMax.val ∧
      State.reset.payloadLen.toNat ≤ State.reset.params.payloadMax.toNat) ∧
    State.reset.params.extMax.val < (5 : Word).toNat := by decide

/-- Each clause: the first byte, a right and a wrong second byte, `End` and `Err`. -/
theorem witness_SignatureCheck (r : ReadResult) :
    let s := running .decode (.header 1) (.readAnswer r)
    s.rst = false ∧ s.session.kind ≠ .none ∧ s.session.cont = .header 1 ∧ (1 : Fin 54).val < 2 ∧
    s.host = .readAnswer r :: [] := ⟨rfl, nofun, rfl, by decide, rfl⟩

theorem witness_SignatureCheck_clauses :
    (0 : Fin 54).val = 0 ∧ (1 : Fin 54).val = 1 ∧ ((Vector.replicate 54 (0 : Byte)).set 0 0x42).get 0 = 0x42 ∧
    (Vector.replicate 54 (0 : Byte)).get 0 ≠ 0x42 := by decide

/-- Both clauses: the same step with width and height 1 and 0. -/
theorem witness_CapacityPreflight :
    let s := running .encode (.header 53) (.readAnswer (.byte 0))
    let h := (s.session.hdr.set 18 100).set 22 1
    s.rst = false ∧ s.session.kind = .encode ∧ s.session.cont = .header 53 ∧ s.host = .readAnswer (.byte 0) :: [] ∧
    (headerWidth (s.session.hdr.set 53 0)).toNat * (headerHeight (s.session.hdr.set 53 0)).toNat * 3 <
      8 * (12 + s.params.markerLen.val + s.session.el.toNat + s.session.pl.toNat) ∧
    8 * (12 + s.params.markerLen.val + s.session.el.toNat + s.session.pl.toNat) ≤
      (headerWidth (h.set 53 0)).toNat * (headerHeight (h.set 53 0)).toNat * 3 := by decide

/-- The marker byte 0x2A after 0x23 matches, any other last bit does not; both with and without `MCHK`. -/
theorem witness_MarkerCheck :
    let s := running .decode (.fill (.marker 1) 7) (.readAnswer (.byte 0))
    let g := #v[0, 0, 1, 0, 1, 0, 1]
    let s := { s with dmarker := 0x23, session := { s.session with group := Vector.ofFn fun k => if h : k.val < 7 then g.get ⟨k.val, h⟩ else 0 } }
    s.rst = false ∧ s.session.kind = .decode ∧ s.session.cont = .fill (.marker 1) 7 ∧ 1 + 1 = s.params.markerLen.val ∧
    s.host = .readAnswer (.byte 0) :: [] ∧
    (∀ k, k < s.params.markerLen.val →
      byteOf (setByte s.dmarker 1 (decodeByte (first8 (s.session.group.set 7 0)))) k = byteOf s.params.marker k) ∧
    ¬ ∀ k, k < s.params.markerLen.val →
      byteOf (setByte s.dmarker 1 (decodeByte (first8 (s.session.group.set 7 1)))) k = byteOf s.params.marker k := by decide

theorem witness_MarkerCheck_none :
    let s := { running .decode (.header 53) (.readAnswer (.byte 0)) with params := { Params.default with markerLen := 0 } }
    s.rst = false ∧ s.session.kind = .decode ∧ s.session.cont = .header 53 ∧ s.params.markerLen.val = 0 ∧
    s.host = .readAnswer (.byte 0) :: [] := by decide

/-- The three clauses at their boundaries: length 1 with 7 and with 8 carrier bytes left, length 0. -/
theorem witness_ExtensionLengthBounds :
    let s := running .decode (.fill .extLen 31) (.readAnswer (.byte 1))
    s.rst = false ∧ s.session.kind = .decode ∧ s.session.cont = .fill .extLen 31 ∧ s.host = .readAnswer (.byte 1) :: [] ∧
    (decodeInt32 (s.session.group.set 31 1)).toNat = 1 ∧ (decodeInt32 (s.session.group.set 31 0)).toNat = 0 ∧
    ((55 : Nat) : Int) - ((((101 : BitVec 64) + 1).toNat : Int) - 54) < 8 * 1 ∧
    8 * 1 ≤ ((56 : Nat) : Int) - ((((101 : BitVec 64) + 1).toNat : Int) - 54) := by decide

theorem witness_PayloadLengthBounds :
    let s := running .decode (.fill .payloadLen 31) (.readAnswer (.byte 1))
    s.rst = false ∧ s.session.kind = .decode ∧ s.session.cont = .fill .payloadLen 31 ∧
    s.host = .readAnswer (.byte 1) :: [] ∧ (1 : Nat) ≤ s.params.payloadMax.toNat ∧
    Params.payloadMax { Params.default with payloadMax := 0 } < 1 := by decide

theorem witness_TailPassthrough (r : ReadResult) (w : WriteResult) :
    let s := running .encode .tail (.readAnswer r)
    let t := running .encode (.tailOut 7) (.writeAnswer w)
    s.rst = false ∧ s.session.kind = .encode ∧ s.session.cont = .tail ∧ s.host = .readAnswer r :: [] ∧
    t.rst = false ∧ t.session.kind = .encode ∧ t.session.cont = .tailOut 7 ∧ t.host = .writeAnswer w :: [] :=
  ⟨rfl, rfl, rfl, rfl, rfl, rfl, rfl, rfl⟩

/-- A state for each clause of the table. -/
theorem witness_StreamErrorTable :
    (running .decode (.header 1) (.readAnswer .endOfStream)).session.kind ≠ .none ∧
    (running .decode (.header 2) (.readAnswer .err)).session.kind ≠ .none ∧
    (running .decode (.fill .extLen 0) (.readAnswer .endOfStream)).session.kind ≠ .none ∧
    (running .encode .tail (.readAnswer .endOfStream)).session.kind = .encode ∧
    (running .encode (.payloadIn 0) (.readAnswer .err)).pending = some .sinRead ∧
    (running .encode (.tailOut 7) (.writeAnswer .err)).pending = some (.coutWrite 7) ∧
    (running .decode (.deliver 0 7) (.writeAnswer .err)).pending = some (.poutWrite 7) := by decide

/-- A state for each clause, and each step answers a next state. -/
theorem witness_AnswersAdvancePorts :
    (let s := running .encode .tail (.readAnswer (.byte 7))
     s.pending = some .cinRead ∧ step s = .next (after (step s))) ∧
    (let s := running .encode (.payloadIn 0) (.readAnswer (.byte 7))
     s.pending = some .sinRead ∧ step s = .next (after (step s))) ∧
    (let s := running .encode (.tailOut 7) (.writeAnswer .ok)
     s.pending = some (.coutWrite 7) ∧ step s = .next (after (step s))) ∧
    (let s := running .decode (.deliver 0 7) (.writeAnswer .ok)
     s.pending = some (.poutWrite 7) ∧ step s = .next (after (step s))) ∧
    let s := running .encode .tail (.readAnswer .err)
    step s = .next (after (step s)) :=
  ⟨⟨rfl, rfl⟩, ⟨rfl, rfl⟩, ⟨rfl, rfl⟩, ⟨rfl, rfl⟩, rfl⟩

/-- A running session meets the status invariant. -/
theorem running_statusInv (e : HostEvent) : StatusInv (running .encode .tail e) := by
  constructor <;> simp [running, State.pending, Session.pending, State.reset, Status.reset]

theorem witness_ErrorsArePrecise :
    let s := running .encode .tail (.readAnswer .err)
    StatusInv s ∧ s.status.busy = true ∧ step s = .next (after (step s)) ∧ (after (step s)).status.err ≠ .none :=
  ⟨running_statusInv _, rfl, rfl, by decide⟩

/-- The clause of a byte taken from CIN: the wrong second signature byte. -/
theorem witness_ErrorsArePrecise_byte :
    let s := running .encode (.header 1) (.readAnswer (.byte 0x4D))
    StatusInv s ∧ s.status.busy = true ∧ s.host = .readAnswer (.byte 0x4D) :: [] ∧
    step s = .next (after (step s)) ∧ (after (step s)).status.err ≠ .none :=
  ⟨by constructor <;> simp [running, State.pending, Session.pending, State.reset, Status.reset], rfl, rfl, rfl,
    by decide⟩

theorem witness_CtrlWrite :
    let s := running .encode .tail (.regWrite 0x04 0xF 0x7)
    s.rst = false ∧ s.host = .regWrite 0x04 0xF 0x7 :: [] ∧ StatusInv s ∧ s.status.busy = true :=
  ⟨rfl, rfl, running_statusInv _, rfl⟩

theorem witness_SessionIgnoresHostRegisters :
    let s := running .encode .tail (.readAnswer .err)
    s.rst = false ∧ s.host = .readAnswer .err :: [] ∧ isAnswer (.readAnswer .err) = true ∧
    step s = .next (after (step s)) := ⟨rfl, rfl, rfl, rfl⟩

theorem witness_SessionEndsOnlyByItself :
    (let s := running .encode .tail (.readAnswer .err)
     step s = .next (after (step s)) ∧ s.status.busy = true ∧ (after (step s)).status.busy = false) ∧
    let s := running .encode .tail (.regWrite 0x10 0xF 7)
    step s = .next (after (step s)) ∧ s.status.busy = true ∧ isAnswer (.regWrite 0x10 0xF 7) = false :=
  ⟨⟨rfl, rfl, rfl⟩, rfl, rfl, rfl⟩

theorem witness_StopsOnlyOnUnsolicitedAnswer :
    step (withMove (.readAnswer .err)) = .fault .unsolicitedAnswer ∧
    step (running .encode .tail (.writeAnswer .ok)) = .fault .unsolicitedAnswer := ⟨rfl, rfl⟩

theorem witness_ParametersNeverChange : step State.reset = .next State.reset := rfl

theorem witness_ResetSequence :
    (let s := { withMove (.regRead 0x00 0xF) with rst := true }
     s.rst = true ∧ s.host = .regRead 0x00 0xF :: [] ∧ HostEvent.regRead 0x00 0xF ≠ .rstRelease) ∧
    let s := { State.reset with host := [.rstAssert, .rstRelease] }
    s.rst = false ∧ s.host = .rstAssert :: .rstRelease :: [] := by decide

theorem witness_InvariantsAtReset :
    let s := running .encode .tail .rstAssert
    s.rst = false ∧ s.host = .rstAssert :: [] ∧ step s = .next (after (step s)) := ⟨rfl, rfl, rfl⟩

theorem witness_NoMoveKeepsEverything : State.reset.host = [] := rfl

theorem witness_ResetClearsBusRecord :
    (let s := withMove .rstAssert
     s.rst = false ∧ s.host = .rstAssert :: [] ∧ step s = .next (after (step s))) ∧
    let s := { withMove (.regRead 0x00 0xF) with rst := true }
    s.rst = true ∧ s.bus = none ∧ step s = .next (after (step s)) := ⟨⟨rfl, rfl, rfl⟩, rfl, rfl, rfl⟩

/-! ### Witnesses of the statements about whole sessions -/

/-- The smallest frame: no marker, no extension, no payload. -/
def bare : Params := { Params.default with markerLen := 0 }

/-- A carrier of 118 bytes that declares 32x1 and carries that frame, both lengths 0. -/
def carrier : List Byte :=
  [0x42, 0x4D] ++ List.replicate 16 0 ++ [32, 0, 0, 0, 1, 0, 0, 0] ++ List.replicate 28 0 ++ List.replicate 64 0

/-- ENCODE of the bare frame in that carrier, about to be told `End`. -/
def encodeEnd : State :=
  { State.reset with
    params := bare, cap := 96, req := 96, width := 32, height := 1, cinPos := 118, outPos := 118, cin := carrier,
    cout := carrier,
    status := { Status.reset with busy := true, capOk := true, phase := .payloadDone },
    session := { Session.idle with kind := .encode, cont := .tail, hdr := headerOf carrier },
    host := [.readAnswer .endOfStream] }

/-- DECODE of that carrier, about to be given the last byte of the frame. -/
def decodeEnd : State :=
  { State.reset with
    params := bare, cap := 96, width := 32, height := 1, cinPos := 117, cin := carrier.take 117,
    status := { Status.reset with busy := true, mode := true, mmatch := true, phase := .extDone },
    session := { Session.idle with
      kind := .decode, cont := .fill .payloadLen 31, hdr := headerOf carrier, mchkL := true },
    host := [.readAnswer (.byte 0)] }

theorem carrier_isStego : IsStego bare 0 0 0 [] carrier carrier := by
  refine ⟨Nat.le_refl _, ?_⟩
  decide

theorem carrier_header : ∀ j, j < 54 → carrier[j]? = some (headerByte (headerOf carrier) j) := by decide

theorem encodeEnd_trace : EncodeTrace encodeEnd where
  el_eq _ := rfl
  ext_eq _ := rfl
  pl_eq _ := rfl
  el_le _ := by decide
  pl_le _ := by decide
  busy _ := rfl
  checked _ _ := ⟨⟨carrier_header, fun _ => by decide⟩, by decide, by decide, by decide, by decide, by decide⟩
  stego _ := carrier_isStego
  point _ := ⟨rfl, by decide, rfl, rfl, rfl⟩

theorem encodeEnd_counters : CounterInv encodeEnd where
  cin_eq := by decide
  out_eq := by decide
  sin_eq := by decide
  encode_ports _ := rfl
  decode_ports h := by cases h

theorem witness_EncodeOutputLaws :
    EncodeTrace encodeEnd ∧ CounterInv encodeEnd ∧ encodeEnd.session.kind = .encode ∧
    step encodeEnd = .next (after (step encodeEnd)) ∧ (after (step encodeEnd)).status.busy = false ∧
    (after (step encodeEnd)).status.done = true ∧ (after (step encodeEnd)).status.err = .none :=
  ⟨encodeEnd_trace, encodeEnd_counters, rfl, rfl, rfl, rfl, rfl⟩

theorem witness_RoundTripLaw :
    let d := { State.reset with params := bare }
    let t := after (step encodeEnd)
    EncodeTrace encodeEnd ∧ encodeEnd.session.kind = .encode ∧ step encodeEnd = .next t ∧ t.status.busy = false ∧
    t.status.done = true ∧ t.status.err = .none ∧ d.params = t.params ∧ d.rst = false ∧
    exec .decode d = .next (after (exec .decode d)) :=
  ⟨encodeEnd_trace, rfl, rfl, rfl, rfl, rfl, rfl, rfl, rfl⟩

theorem decodeEnd_point : DecodePoint decodeEnd := by
  refine ⟨trivial, by decide, by decide, ⟨?_, fun _ => by decide⟩, by decide, by decide, by decide, by decide, ?_, rfl,
    by decide, fun _ _ => rfl⟩
  · decide
  · exact ⟨fun j hj => absurd hj (Nat.not_lt_zero j), by decide, fun _ => by decide, nofun,
      fun j hj => absurd hj (Nat.not_lt_zero j), by decide, nofun, fun _ => rfl, rfl,
      fun j hj => absurd hj (Nat.not_lt_zero j)⟩

theorem decodeEnd_trace : DecodeTrace decodeEnd where
  el_eq _ := rfl
  pl_eq _ := rfl
  el_le _ := by decide
  pl_le _ := by decide
  busy _ := rfl
  point _ := decodeEnd_point

theorem decodeEnd_counters : CounterInv decodeEnd where
  cin_eq := by decide
  out_eq := by decide
  sin_eq := by decide
  encode_ports h := by cases h
  decode_ports _ := ⟨rfl, rfl⟩

theorem witness_DecodeResultLaws :
    DecodeTrace decodeEnd ∧ CounterInv decodeEnd ∧ decodeEnd.session.kind = .decode ∧ decodeEnd.session.mchkL = true ∧
    step decodeEnd = .next (after (step decodeEnd)) ∧ (after (step decodeEnd)).status.busy = false ∧
    (after (step decodeEnd)).status.done = true ∧ (after (step decodeEnd)).status.err = .none :=
  ⟨decodeEnd_trace, decodeEnd_counters, rfl, rfl, rfl, by decide, by decide, by decide⟩

theorem witness_StatusInvKept :
    let s := running .encode .tail (.readAnswer (.byte 0x5A))
    StatusInv s ∧ step s = .next (after (step s)) := ⟨running_statusInv _, rfl⟩

theorem witness_CounterInvKept : CounterInv encodeEnd ∧ step encodeEnd = .next (after (step encodeEnd)) :=
  ⟨encodeEnd_counters, rfl⟩

theorem witness_EncodeTraceKept : EncodeTrace encodeEnd ∧ step encodeEnd = .next (after (step encodeEnd)) :=
  ⟨encodeEnd_trace, rfl⟩

theorem witness_DecodeTraceKept : DecodeTrace decodeEnd ∧ step decodeEnd = .next (after (step decodeEnd)) :=
  ⟨decodeEnd_trace, rfl⟩

theorem witness_FrameReadsBack :
    IsStego bare 0 0 0 [] carrier carrier ∧ carrier.length = carrier.length ∧
    frameEnd bare (0 : Word).toNat (0 : Word).toNat ≤ carrier.length ∧ ([] : List Byte).length = (0 : Word).toNat :=
  ⟨carrier_isStego, rfl, by decide, rfl⟩

theorem witness_EncodeRunCompletes :
    let s := { State.reset with params := bare }
    s.rst = false ∧ exec .encode s = .next (after (exec .encode s)) ∧ s.extLen.toNat ≤ s.params.extMax.val ∧
    s.payloadLen.toNat ≤ s.params.payloadMax.toNat ∧ ([] : List Byte).length = s.payloadLen.toNat ∧
    signatureOk (headerOf carrier) = true ∧
    requiredBits s.params.markerLen.val s.extLen.toNat s.payloadLen.toNat ≤
      imageCapacityBytes (headerWidth (headerOf carrier)) (headerHeight (headerOf carrier)) ∧
    frameEnd s.params s.extLen.toNat s.payloadLen.toNat ≤ carrier.length :=
  ⟨rfl, rfl, by decide, by decide, rfl, by decide, by decide, by decide⟩

theorem witness_DecodeRunCompletes :
    let s := { State.reset with params := bare }
    exec .decode s = .next (after (exec .decode s)) ∧
    ∀ k v, frameBit s.params 0 0 0 [] k = some v → (carrier[k]?).map lsb = some v := by
  refine ⟨rfl, fun k v h => ?_⟩
  change frameBit bare 0 0 0 [] k = some v at h
  by_cases hk : k < 118
  · have : ∀ k, k < 118 → frameBit bare 0 0 0 [] k = none ∨ frameBit bare 0 0 0 [] k = (carrier[k]?).map lsb := by decide
    obtain hn | he := this k hk
    · rw [hn] at h; cases h
    · rw [← he]; exact h
  · have : frameBit bare 0 0 0 [] k = none := frameBit_tail _ _ _ _ _ (by change 54 + 8 * 0 + 64 ≤ k; omega)
    rw [this] at h
    cases h

end Sys2Proof.Tests
end

section
/-! PROOF. Every step keeps the build parameters (00_scope.md rule R6), so every register that shows one of them, and the
constant `ID`, reads the same after any step. -/

namespace Sys2Proof.Machine

/-! ### Each part of a step keeps the parameters -/

@[simp] theorem assertReset_params (s : State) : (assertReset s).params = s.params := rfl
@[simp] theorem illegalCommand_params (s : State) : (illegalCommand s).params = s.params := rfl
@[simp] theorem writeCtrl_params (v : Word) (s : State) : (writeCtrl v s).params = s.params := rfl
@[simp] theorem storeRwData_params (off : BitVec 8) (v : Word) (s : State) :
    (storeRwData off v s).params = s.params := rfl

theorem moveInReset_params (e : HostEvent) (s : State) : (moveInReset e s).params = s.params := by
  obtain h | h := moveInReset_cases e s
  · rw [h]
  · rw [h, releaseReset_params]

theorem regRead_params (off : BitVec 8) (lanes : BitVec 4) (s : State) : (regRead off lanes s).params = s.params := by
  obtain ⟨a, h⟩ := regRead_eq off lanes s
  rw [h, answerBus_params]

theorem exec_params {i : Instr} {s t : State} (h : exec i s = .next t) : t.params = s.params := by
  obtain ⟨e, ok, a, b, c, d, rfl⟩ | rfl | ⟨-, -, rfl⟩ | rfl := exec_cases h <;> simp

theorem acceptCmd_params {w : Word} {s t : State} (h : acceptCmd w s = .next t) : t.params = s.params := by
  obtain ⟨-, rfl⟩ | ⟨i, -, hx⟩ := acceptCmd_cases h
  · exact illegalCommand_params s
  · exact exec_params hx

theorem regWrite_params {off : BitVec 8} {lanes : BitVec 4} {v : Word} {s t : State}
    (h : regWrite off lanes v s = .next t) : t.params = s.params := by
  obtain ⟨-, rfl⟩ | ⟨-, ⟨-, rfl⟩ | ⟨-, rfl⟩ | ⟨-, -, -, rfl⟩ | ⟨-, -, rfl⟩ | ⟨-, -, hc⟩⟩ := regWrite_cases h
  case inr.inr.inr.inr.inr => exact (acceptCmd_params hc).trans rfl
  all_goals simp

theorem moveRunning_params {e : HostEvent} {s t : State} (h : moveRunning e s = .next t) : t.params = s.params := by
  obtain ⟨off, lanes, -, rfl⟩ | ⟨off, lanes, v, -, hw⟩ | ⟨r, -, hr⟩ | ⟨w, -, hw⟩ | ⟨-, rfl⟩ | ⟨-, rfl⟩ :=
    moveRunning_cases h
  · exact regRead_params off lanes s
  · exact regWrite_params hw
  · exact (answerRead_keeps hr).params
  · exact (answerWrite_keeps hw).params
  · exact assertReset_params s
  · rfl

theorem step_params {s t : State} (h : step s = .next t) : t.params = s.params := by
  obtain ⟨-, rfl⟩ | ⟨e, rest, -, ⟨-, rfl⟩ | ⟨-, hm⟩⟩ := step_moves h
  · rfl
  · exact moveInReset_params e _
  · exact (moveRunning_params hm).trans rfl

/-! ### The registers that show a parameter or a constant -/

theorem readRegister_id (s : State) : readRegister 0x00 s = idWord := rfl
theorem readRegister_marker (s : State) : readRegister 0x3C s = markerWord s.params := rfl
theorem readRegister_param (s : State) : readRegister 0x40 s = paramWord s.params := rfl
theorem readRegister_payloadMax (s : State) : readRegister 0x44 s = s.params.payloadMax := rfl

/-- Settles O54: every step keeps the parameters, and each of the four registers is a constant or a function of them. -/
theorem parametersNeverChange : Obligations.ParametersNeverChange := by
  intro s t h
  have hp : t.params = s.params := step_params h
  simp only [readRegister_id, readRegister_marker, readRegister_param, readRegister_payloadMax, hp, and_self]

end Sys2Proof.Machine
end

section
/-! PROOF. What a running session keeps, said once: a predicate that the operations of the session rules keep is kept by
every answer to a stream transaction (20_memory.md rule R91 b), and one that the other moves of the host keep as well is
kept by every step. The status invariant and the counter invariant are two such predicates. -/

namespace Sys2Proof.Machine

/-! ### The operations a session rule is made of -/

/-- A session of this kind waits for a stream answer at this point (10_state.md rule R53). -/
def WaitsAt (k : Kind) (c : Cont) : Prop := Session.pending { Session.idle with kind := k, cont := c } ≠ none

/-- A state without its data: the flags, the kind and the point of the session, the counters, the port records and the
reset input. -/
def State.control (s : State) :
    Status × Kind × Cont × (BitVec 64 × BitVec 64 × Word) × (List Byte × List Byte × List Byte × List Byte) × Bool :=
  (s.status, s.session.kind, s.session.cont, (s.cinPos, s.outPos, s.sinPos), (s.cin, s.sin, s.cout, s.pout), s.rst)

/-- The operations out of which the rules of a session of kind `k` are made keep `Q`. -/
structure SessionOpsKeep (k : Kind) (Q : State → Prop) : Prop where
  data : ∀ {s t}, Q s → t.control = s.control → Q t
  await : ∀ {s} c, WaitsAt k c → Q s → s.session.kind = k → Q (await c s)
  complete : ∀ {s} e, Q s → s.session.kind = k → Q (complete e s)
  setPhase : ∀ {s} p, p ≠ .tailCopied → Q s → Q (setPhase p s)
  cinReceived : ∀ {s} b, Q s → Q (cinReceived b s)
  setCapOk : ∀ {s}, k = .encode → Q s → s.session.kind = k → Q (setCapOk s)
  sinReceived : ∀ {s} b, k = .encode → Q s → s.session.kind = k → Q (sinReceived b s)
  coutDelivered : ∀ {s} b, k = .encode → Q s → s.session.kind = k → Q (coutDelivered b s)
  setMmatch : ∀ {s} m, k = .decode → Q s → s.session.kind = k → Q { s with status := { s.status with mmatch := m } }
  poutDelivered : ∀ {s} b, k = .decode → Q s → s.session.kind = k → Q (poutDelivered b s)

namespace SessionOpsKeep

/-! ### The carrier readers -/

section Readers

variable {k : Kind} {Q : State → Prop} (L : SessionOpsKeep k Q)
include L

theorem raise {s : State} (e : ErrKind) (h : Q s) (hk : s.session.kind = k) : Q (Machine.raise e s) :=
  L.complete e h hk

theorem storeHeader {s : State} (n : Fin 54) (b : Byte) (h : Q s) : Q (Machine.storeHeader n b s) :=
  L.data h rfl

theorem storeGroup {s : State} (n : Fin 32) (b : Byte) (h : Q s) : Q (Machine.storeGroup n b s) :=
  L.data h rfl

theorem loadDimensions {s : State} (h : Q s) : Q (Machine.loadDimensions s) :=
  L.data h rfl

theorem loadCapacity {s : State} (h : Q s) : Q (Machine.loadCapacity s) :=
  L.data h rfl

theorem readHeader {after : State → State} {s : State} (ha : ∀ t, Q t → t.session.kind = k → Q (after t))
    (hw : ∀ n, WaitsAt k (.header n)) (n : Fin 54) (r : ReadResult) (h : Q s) (hk : s.session.kind = k) :
    Q (Machine.readHeader after n r s) := by
  have hb : ∀ b, Q (Machine.storeHeader n b (Machine.cinReceived b s)) := fun b =>
    L.storeHeader n b (L.cinReceived b h)
  obtain ⟨e, he, -⟩ | ⟨b, -, ⟨-, -, he⟩ | ⟨-, hn, he⟩ | ⟨-, he⟩⟩ := readHeader_cases after n r s <;> rw [he]
  · exact L.raise e h hk
  · exact L.raise .formatError (hb b) hk
  · exact L.await _ (hw _) (hb b) hk
  · exact ha _ (L.loadDimensions (hb b)) hk

theorem readGroup {after : Field → State → State} {s : State} (ha : ∀ f t, Q t → t.session.kind = k → Q (after f t))
    (hw : ∀ f n, WaitsAt k (.fill f n)) (f : Field) (n : Fin 32) (r : ReadResult) (h : Q s) (hk : s.session.kind = k) :
    Q (Machine.readGroup after f n r s) := by
  have hb : ∀ b, Q (Machine.storeGroup n b (Machine.cinReceived b s)) := fun b =>
    L.storeGroup n b (L.cinReceived b h)
  obtain ⟨he, -⟩ | ⟨b, -, ⟨-, hn, he⟩ | ⟨-, he⟩⟩ := readGroup_cases after f n r s <;> rw [he]
  · exact L.raise .ioError h hk
  · exact L.await _ (hw _ _) (hb b) hk
  · exact ha f _ (hb b) hk

end Readers

/-! ### The rules of ENCODE -/

section Encode

variable {Q : State → Prop} (L : SessionOpsKeep .encode Q) {s : State} (h : Q s) (hk : s.session.kind = .encode)
include L h hk

theorem encodePayload (n : Nat) : Q (Machine.encodePayload n s) := by
  unfold Machine.encodePayload
  split
  · exact L.await _ nofun h hk
  · exact L.await _ nofun (L.setPhase _ nofun h) hk

theorem encodeExt (n : Nat) : Q (Machine.encodeExt n s) := by
  unfold Machine.encodeExt
  split
  · exact L.await _ nofun h hk
  · exact L.await _ nofun (L.setPhase _ nofun h) hk

theorem encodeMarker (n : Nat) : Q (Machine.encodeMarker n s) := by
  unfold Machine.encodeMarker
  split
  · exact L.await _ nofun h hk
  · exact L.await _ nofun (L.setPhase _ nofun h) hk

theorem encodeAfter (f : Field) : Q (Machine.encodeAfter f s) := by
  cases f with
  | marker n => exact L.encodeMarker h hk (n + 1)
  | extLen => exact L.encodeExt (L.setPhase .extLenDone nofun h) hk 0
  | ext n => exact L.encodeExt h hk (n + 1)
  | payloadLen => exact L.encodePayload (L.setPhase .payloadLenDone nofun h) hk 0
  | payload n => exact L.encodePayload h hk (n + 1)

theorem encodePreflight : Q (Machine.encodePreflight s) := by
  have hl : Q (loadRequired s.session.el s.session.pl (Machine.loadCapacity s)) :=
    L.data h rfl
  unfold Machine.encodePreflight
  dsimp only
  split
  · exact L.await _ nofun (L.setCapOk rfl hl hk) hk
  · exact L.raise _ hl hk

theorem encodeGroup (f : Field) : Q (Machine.encodeGroup f s) := by
  have hg : Q { s with session := { s.session with group := encodedGroup s.params s.session f } } :=
    L.data h rfl
  exact L.await _ nofun hg hk

theorem encodeSin (n : Nat) (r : ReadResult) : Q (Machine.encodeSin n r s) := by
  cases r with
  | byte b =>
    have hb : Q { Machine.sinReceived b s with session := { (Machine.sinReceived b s).session with sinByte := b } } :=
      L.data (L.sinReceived b rfl h hk) rfl
    exact L.await _ nofun hb hk
  | endOfStream => exact L.raise _ h hk
  | err => exact L.raise _ h hk

theorem encodeTail (r : ReadResult) : Q (Machine.encodeTail r s) := by
  cases r with
  | byte b => exact L.await _ nofun (L.cinReceived b h) hk
  | endOfStream =>
    have hp : Q (Machine.setPhase .done s) := L.setPhase _ nofun h
    exact L.complete .none hp hk
  | err => exact L.raise _ h hk

theorem encodeHeaderOut (n : Fin 54) (w : WriteResult) : Q (Machine.encodeHeaderOut n w s) := by
  cases w with
  | ok =>
    have ho : Q (Machine.coutDelivered (s.session.hdr.get n) s) := L.coutDelivered _ rfl h hk
    simp only [Machine.encodeHeaderOut]
    split
    · exact L.await _ nofun ho hk
    · exact L.encodeMarker (L.setPhase .headerDone nofun ho) hk 0
  | err => exact L.raise _ h hk

theorem encodeEmit (f : Field) (n : Fin 32) (w : WriteResult) : Q (Machine.encodeEmit f n w s) := by
  cases w with
  | ok =>
    have ho : Q (Machine.coutDelivered (s.session.group.get n) s) := L.coutDelivered _ rfl h hk
    simp only [Machine.encodeEmit]
    split
    · exact L.await _ nofun ho hk
    · exact L.encodeAfter ho hk f
  | err => exact L.raise _ h hk

theorem encodeTailOut (b : Byte) (w : WriteResult) : Q (Machine.encodeTailOut b w s) := by
  cases w with
  | ok => exact L.await _ nofun (L.coutDelivered b rfl h hk) hk
  | err => exact L.raise _ h hk

end Encode

/-! ### The rules of DECODE -/

section Decode

variable {Q : State → Prop} (L : SessionOpsKeep .decode Q) {s : State} (h : Q s) (hk : s.session.kind = .decode)
include L h hk

theorem decodePayload (n : Nat) : Q (Machine.decodePayload n s) := by
  unfold Machine.decodePayload
  split
  · exact L.await _ nofun h hk
  · exact L.complete _ (L.setPhase _ nofun (L.setPhase _ nofun h)) hk

theorem decodeExt (n : Nat) : Q (Machine.decodeExt n s) := by
  unfold Machine.decodeExt
  split
  · exact L.await _ nofun h hk
  · exact L.await _ nofun (L.setPhase _ nofun h) hk

theorem decodeMarker (n : Nat) : Q (Machine.decodeMarker n s) := by
  obtain ⟨-, he⟩ | ⟨-, -, -, he⟩ | ⟨-, -, he⟩ := decodeMarker_cases n s <;> rw [he]
  · exact L.await _ nofun h hk
  · exact L.raise _ (L.setMmatch _ rfl h hk) hk
  · exact L.await _ nofun (L.setPhase _ nofun (L.setMmatch _ rfl h hk)) hk

theorem decodeHeaderDone : Q (Machine.decodeHeaderDone s) :=
  L.decodeMarker (L.setPhase .headerDone nofun (L.loadCapacity h)) hk 0

theorem decodeExtLen : Q (Machine.decodeExtLen s) := by
  have hn : Q { s with extLen := decodeInt32 s.session.group,
                       session := { s.session with el := decodeInt32 s.session.group } } :=
    L.data h rfl
  unfold Machine.decodeExtLen
  dsimp only
  split
  · exact L.decodeExt (L.setPhase .extLenDone nofun hn) hk 0
  · exact L.raise _ hn hk

theorem decodePayloadLen : Q (Machine.decodePayloadLen s) := by
  have hn : Q { s with payloadLen := decodeInt32 s.session.group,
                       session := { s.session with pl := decodeInt32 s.session.group } } :=
    L.data h rfl
  unfold Machine.decodePayloadLen
  dsimp only
  split
  · exact L.decodePayload (L.setPhase .payloadLenDone nofun hn) hk 0
  · exact L.raise _ hn hk

theorem decodeGroup (f : Field) : Q (Machine.decodeGroup f s) := by
  cases f with
  | marker n =>
    exact L.decodeMarker (s := { s with dmarker := setByte s.dmarker n (decodeByte (first8 s.session.group)) })
      (L.data h rfl) hk (n + 1)
  | extLen => exact L.decodeExtLen h hk
  | ext n =>
    exact L.decodeExt (s := { s with ext := setByte s.ext n (decodeByte (first8 s.session.group)) })
      (L.data h rfl) hk (n + 1)
  | payloadLen => exact L.decodePayloadLen h hk
  | payload n => exact L.await _ nofun h hk

theorem decodeDeliver (n : Nat) (b : Byte) (w : WriteResult) : Q (Machine.decodeDeliver n b w s) := by
  cases w with
  | ok => exact L.decodePayload (L.poutDelivered b rfl h hk) hk (n + 1)
  | err => exact L.raise _ h hk

end Decode

/-! ### Any answer -/

section Answers

variable {Q : State → Prop} (E : SessionOpsKeep .encode Q) (D : SessionOpsKeep .decode Q) {s t : State} (hs : Q s)
include E D hs

theorem answerRead {r : ReadResult} (h : Machine.answerRead r s = .next t) : Q t := by
  unfold Machine.answerRead at h
  split at h
  next => cases h
  next hk =>
    split at h <;> cases h
    · exact E.readHeader (fun _ => E.encodePreflight) (fun _ => nofun) _ r hs hk
    · exact E.readGroup (fun f _ h' hk' => E.encodeGroup h' hk' f) (fun _ _ => nofun) _ _ r hs hk
    · exact E.encodeSin hs hk _ r
    · exact E.encodeTail hs hk r
  next hk =>
    split at h <;> cases h
    · exact D.readHeader (fun _ => D.decodeHeaderDone) (fun _ => nofun) _ r hs hk
    · exact D.readGroup (fun f _ h' hk' => D.decodeGroup h' hk' f) (fun _ _ => nofun) _ _ r hs hk

theorem answerWrite {w : WriteResult} (h : Machine.answerWrite w s = .next t) : Q t := by
  unfold Machine.answerWrite at h
  split at h
  next => cases h
  next hk =>
    split at h <;> cases h
    · exact E.encodeHeaderOut hs hk _ w
    · exact E.encodeEmit hs hk _ _ w
    · exact E.encodeTailOut hs hk _ w
  next hk =>
    split at h <;> cases h
    exact D.decodeDeliver hs hk _ _ w

end Answers

end SessionOpsKeep

/-! ### Any step -/

/-- The sessions and the other moves of the host keep `Q`, a command running only on an idle block out of reset. -/
structure MovesKeep (Q : State → Prop) : Prop where
  encode : SessionOpsKeep .encode Q
  decode : SessionOpsKeep .decode Q
  assertReset : ∀ s, Q (assertReset s)
  releaseReset : ∀ {s}, Q s → Q (releaseReset s)
  writeCtrl : ∀ {s} v, Q s → Q (writeCtrl v s)
  setWign : ∀ {s}, Q s → Q (setWign s)
  illegalCommand : ∀ {s}, Q s → s.rst = false → s.status.busy = false → Q (illegalCommand s)
  exec : ∀ {i s t}, Q s → s.rst = false → s.status.busy = false → exec i s = .next t → Q t

namespace MovesKeep

variable {Q : State → Prop} (M : MovesKeep Q) {s t : State}
include M

theorem data (h : Q s) (hc : t.control = s.control) : Q t := M.encode.data h hc

theorem acceptCmd {w : Word} (hs : Q s) (hr : s.rst = false) (hb : s.status.busy = false)
    (h : Machine.acceptCmd w s = .next t) : Q t := by
  obtain ⟨-, rfl⟩ | ⟨i, -, hx⟩ := acceptCmd_cases h
  · exact M.illegalCommand hs hr hb
  · exact M.exec hs hr hb hx

theorem regWrite {off : BitVec 8} {lanes : BitVec 4} {v : Word} (hs : Q s) (hr : s.rst = false)
    (h : Machine.regWrite off lanes v s = .next t) : Q t := by
  have ha : ∀ a, Q (answerBus a s) := fun a => M.data hs rfl
  obtain ⟨-, rfl⟩ | ⟨-, ⟨-, rfl⟩ | ⟨-, rfl⟩ | ⟨-, -, -, rfl⟩ | ⟨-, -, rfl⟩ | ⟨hb, -, hc⟩⟩ := regWrite_cases h
  · exact ha _
  · exact M.writeCtrl v (ha _)
  · exact M.setWign (ha _)
  · exact ha _
  · exact M.data hs rfl
  · have hw : Q { answerBus .ok s with cmd := v } := M.data hs rfl
    exact M.acceptCmd hw hr hb hc

theorem moveRunning {e : HostEvent} (hs : Q s) (hr : s.rst = false) (h : Machine.moveRunning e s = .next t) : Q t := by
  obtain ⟨off, lanes, -, rfl⟩ | ⟨off, lanes, v, -, hw⟩ | ⟨r, -, ha⟩ | ⟨w, -, ha⟩ | ⟨-, rfl⟩ | ⟨-, rfl⟩ :=
    moveRunning_cases h
  · obtain ⟨a, he⟩ := regRead_eq off lanes s
    rw [he]
    exact M.data hs rfl
  · exact M.regWrite hs hr hw
  · exact M.encode.answerRead M.decode hs ha
  · exact M.encode.answerWrite M.decode hs ha
  · exact M.assertReset s
  · exact hs

theorem step (hs : Q s) (h : Machine.step s = .next t) : Q t := by
  obtain ⟨-, rfl⟩ | ⟨e, rest, -, hm⟩ := step_moves h
  · exact hs
  · have hh : Q { s with host := rest } := M.data hs rfl
    obtain ⟨-, rfl⟩ | ⟨hr, hm⟩ := hm
    · obtain he | he := moveInReset_cases e { s with host := rest } <;> rw [he]
      · exact hh
      · exact M.releaseReset hh
    · exact M.moveRunning hh hr hm

end MovesKeep

end Sys2Proof.Machine
end

section
/-! PROOF. The status invariant (10_state.md rules R27 to R34) and the counter invariant (R48 to R50) hold from reset on
and are kept by every step. -/

namespace Sys2Proof.Machine

/-! ### The status invariant -/

/-- Whether a transaction is pending is seen from the kind and the point of the session. -/
theorem pending_ne_none_iff (x : Session) : x.pending ≠ none ↔ WaitsAt x.kind x.cont := by
  unfold WaitsAt Session.pending
  cases x.kind with
  | none => simp
  | encode => cases x.cont <;> simp
  | decode => cases x.cont <;> simp

/-- R122: completion leaves the status invariant, whatever `BUSY`, `DONE`, `ERR` and the session were. -/
theorem statusInv_complete (e : ErrKind) {s : State} (hr : s.rst = false) (hp : s.status.phase ≠ .tailCopied)
    (hc : s.status.capOk = true → s.status.mode = false) (hm : s.status.mmatch = true → s.status.mode = true) :
    StatusInv (complete e s) where
  busy_iff := by simp [Session.idle]
  pending_of_busy := nofun
  done_of_busy := nofun
  err_of_busy := nofun
  mode_of_encode := nofun
  mode_of_decode := nofun
  phase_ne := hp
  capOk_mode := hc
  mmatch_mode := hm
  idle_in_reset h := by simp [hr] at h

/-- R181, R210: a session that waits for its first answer, started on the status its acceptance left. -/
theorem statusInv_startSession {x : Session} {s : State} (d : Bool) (hr : s.rst = false)
    (hs : s.status = (accept d s).status) (hk : x.kind = if d then .decode else .encode) (hx : WaitsAt x.kind x.cont) :
    StatusInv (startSession x s) where
  busy_iff := by cases d <;> simp [hk]
  pending_of_busy _ := (pending_ne_none_iff x).mpr hx
  done_of_busy _ := congrArg Status.done hs
  err_of_busy _ := congrArg Status.err hs
  mode_of_encode h := by
    rw [startSession_session, hk] at h
    rw [startSession_status_mode, hs]
    cases d <;> simp at h ⊢
  mode_of_decode h := by
    rw [startSession_session, hk] at h
    rw [startSession_status_mode, hs]
    cases d <;> simp at h ⊢
  phase_ne := by rw [startSession_status_phase, hs]; simp
  capOk_mode := by rw [startSession_status_capOk, hs]; simp
  mmatch_mode := by rw [startSession_status_mmatch, hs]; simp
  idle_in_reset h := by simp [hr] at h

/-- R52, R270: with the status and the session of reset nothing runs, whatever else the state holds. -/
theorem statusInv_of_reset {s : State} (hs : s.status = Status.reset) (hk : s.session = Session.idle) :
    StatusInv s := by
  constructor <;> simp [hs, hk, Status.reset, Session.idle]

namespace StatusInv

variable {s t : State}

theorem of_control (h : StatusInv s) (hc : t.control = s.control) : StatusInv t := by
  simp only [State.control, Prod.mk.injEq] at hc
  obtain ⟨hst, hk, hco, -, -, hr⟩ := hc
  have hp : s.status.busy = true → t.pending ≠ none := fun hb => by
    rw [State.pending, pending_ne_none_iff, hk, hco, ← pending_ne_none_iff]
    exact h.pending_of_busy hb
  constructor <;> rw [hst]
  · rw [hk]; exact h.busy_iff
  · exact hp
  · exact h.done_of_busy
  · exact h.err_of_busy
  · rw [hk]; exact h.mode_of_encode
  · rw [hk]; exact h.mode_of_decode
  · exact h.phase_ne
  · exact h.capOk_mode
  · exact h.mmatch_mode
  · rw [hr]; exact h.idle_in_reset

/-- A running session is not in reset. -/
theorem rst_of_session (h : StatusInv s) (hk : s.session.kind ≠ .none) : s.rst = false := by
  cases hr : s.rst
  · rfl
  · rw [← h.busy_iff, (h.idle_in_reset hr).1] at hk
    cases hk

end StatusInv

theorem statusInv_sessionOps {k : Kind} (hk : k ≠ .none) : SessionOpsKeep k StatusInv where
  data h hc := h.of_control hc
  await c hw h hs := { h with pending_of_busy := fun _ => (pending_ne_none_iff _).mpr (by simpa [hs] using hw) }
  complete e h hs := statusInv_complete e (h.rst_of_session (hs ▸ hk)) h.phase_ne h.capOk_mode h.mmatch_mode
  setPhase p hp h := { h with phase_ne := hp }
  cinReceived _ h := { h with }
  setCapOk he h hs := { h with capOk_mode := fun _ => h.mode_of_encode (hs.trans he) }
  sinReceived b _ h _ := { h with }
  coutDelivered b _ h _ := { h with }
  setMmatch m hd h hs := { h with mmatch_mode := fun _ => h.mode_of_decode (hs.trans hd) }
  poutDelivered b _ h _ := { h with }

theorem statusInv_exec {i : Instr} {s t : State} (hr : s.rst = false) (h : exec i s = .next t) : StatusInv t := by
  obtain ⟨e, ok, a, b, c, d, rfl⟩ | rfl | ⟨-, -, rfl⟩ | rfl := exec_cases h
  · exact statusInv_complete e hr nofun (fun _ => rfl) nofun
  · exact statusInv_complete .argumentError hr nofun nofun nofun
  · exact statusInv_startSession false hr rfl rfl nofun
  · exact statusInv_startSession true hr rfl rfl nofun

theorem statusInv_moves : MovesKeep StatusInv where
  encode := statusInv_sessionOps nofun
  decode := statusInv_sessionOps nofun
  assertReset _ := statusInv_of_reset rfl rfl
  releaseReset h := { h with idle_in_reset := nofun }
  writeCtrl v h := { h with
    done_of_busy := fun hb => by simp [writeCtrl, h.done_of_busy hb]
    idle_in_reset := fun hr => ⟨(h.idle_in_reset hr).1, by simp [writeCtrl, (h.idle_in_reset hr).2]⟩ }
  setWign h := { h with }
  illegalCommand _ hr _ := statusInv_complete .commandError hr nofun nofun nofun
  exec _ hr _ h := statusInv_exec hr h

/-- Settles O48: the operations of the sessions and the other moves each keep the status invariant. -/
theorem statusInvKept : Obligations.StatusInvKept := fun _ _ => statusInv_moves.step

/-! ### The counter invariant -/

/-- R77, R181, R210, R270: with the counters and the records cleared nothing has been carried, whatever else the state
holds. -/
theorem counterInv_of_cleared {s : State} (h0 : (s.cinPos, s.outPos, s.sinPos) = (0, 0, 0))
    (hn : (s.cin, s.sin, s.cout, s.pout) = ([], [], [], [])) : CounterInv s := by
  simp only [Prod.mk.injEq] at h0 hn
  obtain ⟨hci, ho, hsi⟩ := h0
  obtain ⟨hcin, hsin, hcout, hpout⟩ := hn
  constructor <;> simp [*]

theorem CounterInv.of_control {s t : State} (h : CounterInv s) (hc : t.control = s.control) : CounterInv t := by
  simp only [State.control, Prod.mk.injEq] at hc
  obtain ⟨-, hk, -, ⟨hci, ho, hsi⟩, ⟨hcin, hsin, hcout, hpout⟩, -⟩ := hc
  constructor
  · rw [hci, hcin]; exact h.cin_eq
  · rw [ho, hcout, hpout]; exact h.out_eq
  · rw [hsi, hsin]; exact h.sin_eq
  · rw [hk, hpout]; exact h.encode_ports
  · rw [hk, hsin, hcout]; exact h.decode_ports

/-- The end of a session, or of a command that started none, leaves the counters and the ports. -/
theorem CounterInv.complete {s : State} (e : ErrKind) (h : CounterInv s) : CounterInv (complete e s) :=
  { h with encode_ports := nofun, decode_ports := nofun }

theorem counterInv_sessionOps (k : Kind) : SessionOpsKeep k CounterInv where
  data h hc := h.of_control hc
  await c _ h _ := { h with }
  complete e h _ := h.complete e
  setPhase p _ h := { h with }
  cinReceived b h := { h with cin_eq := by simp [h.cin_eq, BitVec.ofNat_add] }
  setCapOk _ h _ := { h with }
  sinReceived b he h hs := { h with
    sin_eq := by simp [h.sin_eq, BitVec.ofNat_add]
    decode_ports := fun hd => by cases (hs.trans he).symm.trans hd }
  coutDelivered b he h hs := { h with
    out_eq := by simp [h.out_eq, BitVec.ofNat_add, add_right_comm]
    decode_ports := fun hd => by cases (hs.trans he).symm.trans hd }
  setMmatch m _ h _ := { h with }
  poutDelivered b hd h hs := { h with
    out_eq := by simp [h.out_eq, BitVec.ofNat_add, add_assoc]
    encode_ports := fun he => by cases (hs.trans hd).symm.trans he }

theorem counterInv_exec {i : Instr} {s t : State} (hs : CounterInv s) (h : exec i s = .next t) : CounterInv t := by
  obtain ⟨e, ok, a, b, c, d, rfl⟩ | rfl | ⟨-, -, rfl⟩ | rfl := exec_cases h
  · exact { hs with encode_ports := nofun, decode_ports := nofun }
  · exact counterInv_of_cleared rfl rfl
  · exact counterInv_of_cleared rfl rfl
  · exact counterInv_of_cleared rfl rfl

theorem counterInv_moves : MovesKeep CounterInv where
  encode := counterInv_sessionOps .encode
  decode := counterInv_sessionOps .decode
  assertReset _ := counterInv_of_cleared rfl rfl
  releaseReset h := { h with }
  writeCtrl _ h := { h with }
  setWign h := { h with }
  illegalCommand h _ _ := { h with encode_ports := nofun, decode_ports := nofun }
  exec h _ _ hx := counterInv_exec h hx

/-- Settles O49: the operations of the sessions and the other moves each keep the counter invariant. -/
theorem counterInvKept : Obligations.CounterInvKept := fun _ _ => counterInv_moves.step

/-! ### The invariants at reset -/

theorem encodeTrace_of_kind {s : State} (h : s.session.kind ≠ .encode) : EncodeTrace s := by
  constructor <;> exact fun hk => absurd hk h

theorem decodeTrace_of_kind {s : State} (h : s.session.kind ≠ .decode) : DecodeTrace s := by
  constructor <;> exact fun hk => absurd hk h

/-- Settles O52: in both states the status, the session, the counters and the port records are those of reset. -/
theorem invariantsAtReset : Obligations.InvariantsAtReset := by
  refine ⟨⟨statusInv_of_reset rfl rfl, counterInv_of_cleared rfl rfl, encodeTrace_of_kind nofun,
    decodeTrace_of_kind nofun⟩, fun s t rest hr hh h => ?_⟩
  rw [step_running hr hh] at h
  cases h
  exact ⟨statusInv_of_reset rfl rfl, counterInv_of_cleared rfl rfl, encodeTrace_of_kind nofun,
    decodeTrace_of_kind nofun⟩

end Sys2Proof.Machine
end

section
/-! PROOF. The register file (10_state.md rule R21): what each register reads as, and what a bus transaction of the host
does to it (R22, R23, 20_memory.md rules R71, R72). -/

namespace Sys2Proof.Machine

/-! ### The words of `STATUS`, `CTRL` and `PARAM` -/

/-- The bits of `STATUS` (R35), field by field from bit 0. -/
theorem getLsbD_statusWord (t : Status) (i : Nat) : t.word.getLsbD i =
    if i < 1 then (BitVec.ofBool t.busy).getLsbD i else if i < 2 then (BitVec.ofBool t.done).getLsbD (i - 1)
    else if i < 3 then (BitVec.ofBool t.capOk).getLsbD (i - 2) else if i < 4 then (BitVec.ofBool t.wign).getLsbD (i - 3)
    else if i < 5 then (BitVec.ofBool t.mmatch).getLsbD (i - 4) else if i < 8 then (0#3).getLsbD (i - 5)
    else if i < 12 then t.err.code.getLsbD (i - 8) else if i < 16 then t.phase.code.getLsbD (i - 12)
    else if i < 17 then (BitVec.ofBool t.mode).getLsbD (i - 16) else (0#15).getLsbD (i - 17) := by
  have hlt : ∀ a b, 0 < b → (i - a < b ↔ i < a + b) := by omega
  change BitVec.getLsbD (w := 15 + 1 + 4 + 4 + 3 + 1 + 1 + 1 + 1 + 1) (0#15 ++ BitVec.ofBool t.mode ++ t.phase.code ++
    t.err.code ++ 0#3 ++ BitVec.ofBool t.mmatch ++ BitVec.ofBool t.wign ++ BitVec.ofBool t.capOk ++
    BitVec.ofBool t.done ++ BitVec.ofBool t.busy) i = _
  simp only [BitVec.getLsbD_append, Nat.sub_sub]
  simp (disch := decide) only [hlt, Nat.reduceAdd]

theorem statusWord_err (t : Status) : t.word.extractLsb' 8 4 = t.err.code := by
  apply BitVec.eq_of_getLsbD_eq
  intro i hi
  rw [BitVec.getLsbD_extractLsb', getLsbD_statusWord]
  simp (disch := omega) [if_pos, if_neg, hi]

theorem statusWord_phase (t : Status) : t.word.extractLsb' 12 4 = t.phase.code := by
  apply BitVec.eq_of_getLsbD_eq
  intro i hi
  rw [BitVec.getLsbD_extractLsb', getLsbD_statusWord]
  simp (disch := omega) [if_pos, if_neg, hi]

theorem statusWord_reserved_low (t : Status) : t.word.extractLsb' 5 3 = 0 := by
  apply BitVec.eq_of_getLsbD_eq
  intro i hi
  rw [BitVec.getLsbD_extractLsb', getLsbD_statusWord]
  simp (disch := omega) [if_pos, if_neg]

theorem statusWord_reserved_high (t : Status) : t.word.extractLsb' 17 15 = 0 := by
  apply BitVec.eq_of_getLsbD_eq
  intro i hi
  rw [BitVec.getLsbD_extractLsb', getLsbD_statusWord]
  simp (disch := omega) [if_neg]

/-- R25: `CTRL` reads `IE` at bit 0, `MCHK` at bit 2 and 0 elsewhere. -/
theorem getLsbD_ctrlWord (ie mchk : Bool) (i : Nat) :
    (ctrlWord ie mchk).getLsbD i = if i = 0 then ie else if i = 2 then mchk else false := by
  change BitVec.getLsbD (w := 29 + 1 + 1 + 1) (0#29 ++ BitVec.ofBool mchk ++ 0#1 ++ BitVec.ofBool ie) i = _
  simp only [BitVec.getLsbD_append]
  rcases i with _ | _ | _ | i <;> simp

/-- R23, R25: of a word written to `CTRL`, bits 0 and 2 read back. -/
theorem ctrlWord_of_written (v : Word) : ctrlWord (v.getLsbD 0) (v.getLsbD 2) = v &&& 0x00000005 := by
  apply BitVec.eq_of_getLsbD_eq
  intro i hi
  rw [getLsbD_ctrlWord, BitVec.getLsbD_and]
  have h5 : ∀ j, j < 32 → (0x00000005 : Word).getLsbD j = (decide (j = 0) || decide (j = 2)) := by decide
  rw [h5 i hi]
  rcases i with _ | _ | _ | i <;> simp

/-- R46: `EXT_MAX` stands in the second byte of `PARAM` and `MARKER_LEN` in the first. -/
theorem paramWord_eq (p : Params) : paramWord p = BitVec.ofNat 32 (256 * p.extMax.val + p.markerLen.val) := by
  have h : ∀ e m : Fin 5,
      0#16 ++ BitVec.ofNat 8 e.val ++ BitVec.ofNat 8 m.val = BitVec.ofNat 32 (256 * e.val + m.val) := by decide
  exact h p.extMax p.markerLen

/-! ### What each register reads as -/

theorem readRegister_ctrl (s : State) : readRegister 0x04 s = ctrlWord s.ie s.mchk := rfl
theorem readRegister_status (s : State) : readRegister 0x0C s = s.status.word := rfl

theorem readRegister_cwin (s : State) (j : Fin 8) :
    readRegister (0x60 + 4 * BitVec.ofNat 8 j.val) s = cwinRead s.cw j := by
  fin_cases j <;> rfl

theorem readRegister_reserved (s : State) {off : BitVec 8} (h : 0x80 ≤ off.toNat) : readRegister off s = 0 := by
  have hne : ∀ c : BitVec 8, c.toNat < 0x80 → off ≠ c := by
    rintro c hc rfl
    omega
  simp [readRegister, hne, cwinIndex, Nat.not_lt.mpr h]

/-- R40: byte lane `i` of a window register is its byte of the window. -/
theorem byteOf_cwinRead (c : Vector Byte 32) (j : Fin 8) (i : Fin 4) :
    byteOf (cwinRead c j) i.val = c.get ⟨4 * j.val + i.val, by omega⟩ := by
  rw [cwinRead, byteOf_ofBytes _ _ _ _ _ i.isLt]
  fin_cases i <;> rfl

/-- R44: the `MARKER` register shows the parameter bytes, and 0 beyond `MARKER_LEN`. -/
theorem byteOf_markerWord (p : Params) {k : Nat} (hk : k < 4) :
    byteOf (markerWord p) k = if k < p.markerLen.val then byteOf p.marker k else 0 := by
  rw [markerWord, byteOf_ofBytes _ _ _ _ _ hk]
  obtain rfl | rfl | rfl | rfl : k = 0 ∨ k = 1 ∨ k = 2 ∨ k = 3 := by omega
  all_goals rfl

/-- R48, R49: the two halves of a 64-bit counter. -/
theorem toNat_halves (c : BitVec 64) :
    (c.extractLsb' 0 32).toNat + 2 ^ 32 * (c.extractLsb' 32 32).toNat = c.toNat := by
  have := c.isLt
  simp only [BitVec.extractLsb'_toNat, Nat.shiftRight_eq_div_pow]
  omega

/-- R42: the three words of `CAP`. -/
theorem toNat_cap_words (c : BitVec 66) :
    (c.extractLsb' 0 32).toNat + 2 ^ 32 * (c.extractLsb' 32 32).toNat +
      2 ^ 64 * ((c.extractLsb' 64 2).setWidth 32).toNat = c.toNat := by
  have := c.isLt
  simp only [BitVec.extractLsb'_toNat, BitVec.toNat_setWidth, Nat.shiftRight_eq_div_pow]
  omega

/-- R43: the two words of `REQ`. -/
theorem toNat_req_words (c : BitVec 37) :
    (c.extractLsb' 0 32).toNat + 2 ^ 32 * ((c.setWidth 64).extractLsb' 32 32).toNat = c.toNat := by
  have := c.isLt
  simp only [BitVec.extractLsb'_toNat, BitVec.toNat_setWidth, Nat.shiftRight_eq_div_pow]
  omega

/-- Settles O10: each register by its read, the packed ones by the lemma of their word. -/
theorem registerMap : Obligations.RegisterMap := by
  intro s
  refine ⟨rfl, fun i _ => getLsbD_ctrlWord _ _ i, rfl, rfl, rfl, rfl, rfl, rfl, rfl, rfl, rfl, rfl, toNat_halves _,
    toNat_halves _, fun k hk => byteOf_markerWord _ hk, paramWord_eq _, fun j i => ?_⟩
  rw [readRegister_cwin]
  exact byteOf_cwinRead s.cw j i

/-- Settles O11: the words of a register put together, and the exact bounds of the two formulas. -/
theorem capacityRegistersExact : Obligations.CapacityRegistersExact := by
  refine ⟨fun s => ⟨toNat_cap_words _, toNat_req_words _⟩, toNat_capacity, fun p el pl => ?_⟩
  rw [toNat_required, requiredBits]
  omega

/-- Settles O9: the bits of the word of `STATUS`, and the two examples of R35. -/
theorem statusValueLayout : Obligations.StatusValueLayout := by
  refine ⟨fun s => ?_, fun s h => ?_, fun s h => ?_⟩
  · simp only [readRegister_status, statusWord_reserved_low, statusWord_err, statusWord_phase, statusWord_reserved_high,
      getLsbD_statusWord]
    refine ⟨by simp, by simp, by simp, by simp, by simp, trivial, ?_, ?_, by simp, trivial⟩
    · cases s.status.err <;> rfl
    · cases s.status.phase <;> rfl
  · rw [readRegister_status, h]; rfl
  · rw [readRegister_status, h]; rfl

/-- Settles O58: the registers of `State.reset`, evaluated at every offset. -/
theorem resetRegisters : Obligations.ResetRegisters := by
  refine ⟨rfl, rfl, rfl, rfl, ?_, rfl, rfl, rfl⟩
  decide

/-! ### Reads -/

/-- R71, R72: what a read answers. -/
theorem regRead_answer (off : BitVec 8) (lanes : BitVec 4) (s : State) :
    regRead off lanes s =
      answerBus (if off.toNat % 4 = 0 ∧ lanes = 0xF then .data (readRegister off s) else .busError) s := by
  simp only [regRead, busAligned_iff]
  split <;> rfl

/-- Settles O12: the move is a read, and a read is its answer. -/
theorem readsHaveNoSideEffect : Obligations.ReadsHaveNoSideEffect := by
  intro s rest off lanes hr hh
  rw [step_running hr hh, moveRunning, regRead_answer]
  rfl

/-! ### Ignored writes -/

/-- R22, R23: a write to an RO register or a reserved offset changes nothing but the bus answer. -/
theorem regWrite_ignored {off : BitVec 8} (v : Word) (s : State) (ha : busAligned off 0xF = true) (h8 : off ≠ 0x08)
    (h4 : off ≠ 0x04) (hd : isRwData off = false) : regWrite off 0xF v s = .next (answerBus .ok s) := by
  rw [regWrite_data v s ha h8 h4, writeData, hd, if_neg Bool.false_ne_true]

/-- R22: a write to `CMD` or to an RW-data register of a busy block sets `WIGN`. -/
theorem regWrite_busy {off : BitVec 8} (v : Word) (s : State) (hb : s.status.busy = true)
    (ho : off = 0x08 ∨ isRwData off = true) : regWrite off 0xF v s = .next (setWign (answerBus .ok s)) := by
  have hb' : (answerBus .ok s).status.busy = true := hb
  obtain rfl | hd := ho
  · rw [regWrite_cmd, writeCmd_of_busy hb']
  · obtain ⟨ha, h8, h4⟩ := isRwData_offset hd
    rw [regWrite_data v s ha h8 h4, writeData, if_pos hd, if_pos hb']

/-- The read-only registers of R21 are aligned, and neither `CMD`, `CTRL` nor RW-data. -/
theorem readOnly_offset {off : BitVec 8}
    (h : off ∈ ([0x00, 0x0C, 0x28, 0x2C, 0x30, 0x34, 0x38, 0x3C, 0x40, 0x44, 0x48, 0x4C, 0x50, 0x54, 0x58, 0x5C] :
      List (BitVec 8))) :
    busAligned off 0xF = true ∧ off ≠ 0x08 ∧ off ≠ 0x04 ∧ isRwData off = false := by
  revert h; revert off; decide

/-- No reserved offset is `CMD`, `CTRL` or RW-data. -/
theorem reserved_offset {off : BitVec 8} (h : 0x80 ≤ off.toNat) :
    off ≠ 0x08 ∧ off ≠ 0x04 ∧ isRwData off = false := by
  revert h; revert off; decide

/-- Settles O16: every RO offset is aligned and neither `CMD`, `CTRL` nor RW-data. -/
theorem readOnlyWriteIgnored : Obligations.ReadOnlyWriteIgnored := by
  intro s rest off v hr hh hro
  obtain ⟨ha, h8, h4, hd⟩ := readOnly_offset hro
  exact ⟨some .ok, by rw [step_running hr hh, moveRunning, regWrite_ignored v _ ha h8 h4 hd]; rfl⟩

/-- Settles O14: the reserved offsets, the reserved bits, the ignored write and the write to `CTRL`. -/
theorem reservedReadsZero : Obligations.ReservedReadsZero := by
  refine ⟨fun s off h => readRegister_reserved s h,
    fun s => ⟨statusWord_reserved_low _, statusWord_reserved_high _, ?_⟩,
    fun s rest off v hr hal hres hh => ?_, fun s rest v hr hh => ?_⟩
  · rw [readRegister_ctrl]
    cases s.ie <;> cases s.mchk <;> rfl
  · have ha : busAligned off 0xF = true := (busAligned_iff off 0xF).mpr ⟨hal, rfl⟩
    obtain ⟨h8, h4, hd⟩ := reserved_offset hres
    exact ⟨some .ok, by rw [step_running hr hh, moveRunning, regWrite_ignored v _ ha h8 h4 hd]; rfl⟩
  · refine ⟨writeCtrl v (answerBus .ok { s with host := rest }), ?_, ?_⟩
    · rw [step_running hr hh, moveRunning, regWrite_ctrl]
    · rw [readRegister_ctrl]
      exact ctrlWord_of_written v

/-! ### The flag of an ignored write -/

/-- R33, R121: the acceptance of a command clears `WIGN`. -/
theorem exec_wign {i : Instr} {s t : State} (h : exec i s = .next t) : t.status.wign = false := by
  obtain ⟨e, ok, a, b, c, d, rfl⟩ | rfl | ⟨-, -, rfl⟩ | rfl := exec_cases h <;> rfl

/-- R33: a bus write keeps a set `WIGN`, or it is a full-word write to `CMD` of an idle block. -/
theorem regWrite_wign {off : BitVec 8} {lanes : BitVec 4} {v : Word} {s t : State}
    (h : regWrite off lanes v s = .next t) (hw : s.status.wign = true) :
    t.status.wign = true ∨ (s.status.busy = false ∧ off = 0x08 ∧ lanes = 0xF) := by
  obtain ⟨-, rfl⟩ | ⟨ha, ⟨-, rfl⟩ | ⟨-, rfl⟩ | ⟨-, -, -, rfl⟩ | ⟨-, -, rfl⟩ | ⟨hb, h8, -⟩⟩ := regWrite_cases h
  · exact .inl hw
  · exact .inl hw
  · exact .inl rfl
  · exact .inl hw
  · exact .inl hw
  · exact .inr ⟨hb, h8, ((busAligned_iff off lanes).mp ha).2⟩

/-- R33: a step that clears `WIGN` is the assertion of `rst` or a write to `CMD` of an idle block. -/
theorem step_clears_wign {s t : State} (h : step s = .next t) (hs : s.status.wign = true) (ht : t.status.wign = false) :
    ∃ rest, s.host = .rstAssert :: rest ∨ (s.status.busy = false ∧ ∃ w, s.host = .regWrite 0x08 0xF w :: rest) := by
  have hne : t.status.wign ≠ s.status.wign := by simp [hs, ht]
  obtain ⟨-, rfl⟩ | ⟨e, rest, hh, ⟨-, rfl⟩ | ⟨-, hm⟩⟩ := step_moves h
  · exact absurd rfl hne
  · obtain he | he := moveInReset_cases e { s with host := rest } <;> rw [he] at hne <;> exact absurd rfl hne
  · obtain ⟨off, lanes, -, rfl⟩ | ⟨off, lanes, v, rfl, hw⟩ | ⟨r, -, ha⟩ | ⟨w, -, ha⟩ | ⟨rfl, -⟩ | ⟨-, rfl⟩ :=
      moveRunning_cases hm
    · rw [regRead_answer] at hne
      exact absurd rfl hne
    · obtain hk | ⟨hb, rfl, rfl⟩ := regWrite_wign hw hs
      · exact absurd (hk.trans hs.symm) hne
      · exact ⟨rest, .inr ⟨hb, v, hh⟩⟩
    · exact absurd (answerRead_keeps ha).wign hne
    · exact absurd (answerWrite_keeps ha).wign hne
    · exact ⟨rest, .inl hh⟩
    · exact absurd rfl hne

/-- Settles O8: the ignored write, the acceptance, and the inversion of a step that clears the flag. -/
theorem writeIgnoredFlag : Obligations.WriteIgnoredFlag := by
  refine ⟨fun s rest off v hr hb hh ho => ⟨some .ok, ?_⟩, fun i s t => exec_wign, fun s t => step_clears_wign, rfl⟩
  have hb' : { s with host := rest }.status.busy = true := hb
  rw [step_running hr hh, moveRunning, regWrite_busy v _ hb' ho]
  rfl

/-! ### Writes to the data registers -/

theorem cwinIndex_bounds {off : BitVec 8} {j : Fin 8} (h : cwinIndex off = some j) :
    0x60 ≤ off.toNat ∧ off.toNat < 0x80 ∧ (off.toNat - 0x60) / 4 = j.val := by
  unfold cwinIndex at h
  split at h
  next hb =>
    cases h
    exact ⟨hb.1, hb.2, rfl⟩
  next => cases h

/-- The window register of an aligned offset belongs to that offset alone. -/
theorem cwinIndex_inj {a b : BitVec 8} {j : Fin 8} (ha : a.toNat % 4 = 0) (hb : b.toNat % 4 = 0)
    (hj : cwinIndex a = some j) (hk : cwinIndex b = some j) : a = b := by
  obtain ⟨_, _, _⟩ := cwinIndex_bounds hj
  obtain ⟨_, _, _⟩ := cwinIndex_bounds hk
  apply BitVec.eq_of_toNat_eq
  omega

/-- R22: a data register reads the value stored in it. -/
theorem readRegister_storeRwData_same {off : BitVec 8} (v : Word) (s : State) (hd : isRwData off = true) :
    readRegister off (storeRwData off v s) = v := by
  have hw : ∀ j : Fin 8, cwinRead (cwinWrite s.cw j v) j = v := fun j => by rw [cwinRead_cwinWrite, if_pos rfl]
  simp only [isRwData, List.contains_eq_mem, List.mem_cons, List.not_mem_nil, or_false, decide_eq_true_eq] at hd
  obtain rfl | rfl | rfl | rfl | rfl | rfl | hd := hd
  case inr.inr.inr.inr.inr.inr =>
    obtain rfl | rfl | rfl | rfl | rfl | rfl | rfl | rfl := hd <;> exact hw _
  all_goals rfl

theorem storeRwData_cw_none {off : BitVec 8} (v : Word) (s : State) (h : cwinIndex off = none) :
    (storeRwData off v s).cw = s.cw := by
  simp only [storeRwData, h]

theorem storeRwData_cw_some {off : BitVec 8} {j : Fin 8} (v : Word) (s : State) (h : cwinIndex off = some j) :
    (storeRwData off v s).cw = cwinWrite s.cw j v := by
  simp only [storeRwData, h]

/-- R22: every other register reads as before. -/
theorem readRegister_storeRwData_of_ne {off off' : BitVec 8} (v : Word) (s : State) (ha : off.toNat % 4 = 0)
    (ha' : off'.toNat % 4 = 0) (hne : off' ≠ off) : readRegister off' (storeRwData off v s) = readRegister off' s := by
  have hsel : ∀ (c : BitVec 8) (x : Word), off' = c → (if off = c then v else x) = x := fun c x h =>
    if_neg fun h' => hne (h.trans h'.symm)
  unfold readRegister
  -- the registers in the order of R21: four before the six scalar data registers, fourteen after them, the window
  iterate 4 refine @ite_congr _ _ _ _ _ _ _ _ _ rfl (fun _ => rfl) fun _ => ?_
  iterate 6 refine @ite_congr _ _ _ _ _ _ _ _ _ rfl (hsel _ _) fun _ => ?_
  iterate 14 refine @ite_congr _ _ _ _ _ _ _ _ _ rfl (fun _ => rfl) fun _ => ?_
  cases hj : cwinIndex off' with
  | none => rfl
  | some j =>
    cases hk : cwinIndex off with
    | none => rw [storeRwData_cw_none v s hk]
    | some i =>
      have hij : j ≠ i := by
        rintro rfl
        exact hne (cwinIndex_inj ha' ha hj hk)
      simp only [storeRwData_cw_some v s hk, cwinRead_cwinWrite, if_neg hij]

/-- Settles O15: the written register reads back, the others are told apart by offset, and the rest is kept. -/
theorem dataWriteReadsBack : Obligations.DataWriteReadsBack := by
  intro s rest off v hr hb hd hh
  obtain ⟨hal, h8, h4⟩ := isRwData_offset hd
  obtain ⟨ha, -⟩ := (busAligned_iff off 0xF).mp hal
  let u := answerBus .ok { s with host := rest }
  refine ⟨storeRwData off v u, ?_, readRegister_storeRwData_same v u hd, fun off' ha' hne => ?_, rfl, rfl,
    ⟨rfl, rfl, rfl, rfl⟩, rfl, rfl, rfl, rfl⟩
  · have hb' : u.status.busy = false := hb
    rw [step_running hr hh, moveRunning, regWrite_data v _ hal h8 h4, writeData, if_pos hd, hb',
      if_neg Bool.false_ne_true]
  · exact (readRegister_storeRwData_of_ne v u ha ha' hne).trans rfl

end Sys2Proof.Machine
end

section
/-! PROOF. A session step neither reads nor writes the host's own registers (10_state.md rules R25, R36, R40,
20_memory.md rule R89): putting other contents there commutes with every rule of the two sessions. -/

namespace Sys2Proof.Machine

/-- Contents of the registers no session uses: `VALUE`, `CMD`, the window, `CTRL` and `WIGN`. -/
structure HostRegs where
  value : Word
  cmd : Word
  cw : Vector Byte 32
  ie : Bool
  mchk : Bool
  wign : Bool

/-- The state with these contents. -/
def HostRegs.put (r : HostRegs) (s : State) : State :=
  { s with value := r.value, cmd := r.cmd, cw := r.cw, ie := r.ie, mchk := r.mchk,
           status := { s.status with wign := r.wign } }

variable (r : HostRegs) (s : State)

/-! ### The rules of ENCODE -/

theorem encodePayload_put (n : Nat) : encodePayload n (r.put s) = r.put (encodePayload n s) := by
  unfold encodePayload
  rw [apply_ite r.put]
  rfl

theorem encodeExt_put (n : Nat) : encodeExt n (r.put s) = r.put (encodeExt n s) := by
  unfold encodeExt
  rw [apply_ite r.put]
  rfl

theorem encodeMarker_put (n : Nat) : encodeMarker n (r.put s) = r.put (encodeMarker n s) := by
  unfold encodeMarker
  rw [apply_ite r.put]
  rfl

theorem encodeAfter_put (f : Field) : encodeAfter f (r.put s) = r.put (encodeAfter f s) := by
  cases f with
  | marker n => exact encodeMarker_put r s (n + 1)
  | extLen => exact encodeExt_put r (setPhase .extLenDone s) 0
  | ext n => exact encodeExt_put r s (n + 1)
  | payloadLen => exact encodePayload_put r (setPhase .payloadLenDone s) 0
  | payload n => exact encodePayload_put r s (n + 1)

theorem encodePreflight_put : encodePreflight (r.put s) = r.put (encodePreflight s) := by
  unfold encodePreflight
  dsimp only
  rw [apply_ite r.put]
  rfl

theorem encodeGroup_put (f : Field) : encodeGroup f (r.put s) = r.put (encodeGroup f s) := rfl

theorem encodeSin_put (n : Nat) (a : ReadResult) : encodeSin n a (r.put s) = r.put (encodeSin n a s) := by
  cases a <;> rfl

theorem encodeTail_put (a : ReadResult) : encodeTail a (r.put s) = r.put (encodeTail a s) := by
  cases a <;> rfl

theorem encodeHeaderOut_put (n : Fin 54) (a : WriteResult) :
    encodeHeaderOut n a (r.put s) = r.put (encodeHeaderOut n a s) := by
  cases a with
  | err => rfl
  | ok =>
    unfold encodeHeaderOut
    dsimp only
    rw [apply_dite r.put, ← encodeMarker_put]
    rfl

theorem encodeEmit_put (f : Field) (n : Fin 32) (a : WriteResult) :
    encodeEmit f n a (r.put s) = r.put (encodeEmit f n a s) := by
  cases a with
  | err => rfl
  | ok =>
    unfold encodeEmit
    dsimp only
    rw [apply_dite r.put, ← encodeAfter_put]
    rfl

theorem encodeTailOut_put (b : Byte) (a : WriteResult) :
    encodeTailOut b a (r.put s) = r.put (encodeTailOut b a s) := by
  cases a <;> rfl

/-! ### The rules of DECODE -/

theorem decodePayload_put (n : Nat) : decodePayload n (r.put s) = r.put (decodePayload n s) := by
  unfold decodePayload
  rw [apply_ite r.put]
  rfl

theorem decodeExt_put (n : Nat) : decodeExt n (r.put s) = r.put (decodeExt n s) := by
  unfold decodeExt
  rw [apply_ite r.put]
  rfl

theorem decodeMarkerCheck_put : decodeMarkerCheck (r.put s) = r.put (decodeMarkerCheck s) := by
  unfold decodeMarkerCheck
  dsimp only
  rw [apply_ite r.put]
  rfl

theorem decodeMarker_put (n : Nat) : decodeMarker n (r.put s) = r.put (decodeMarker n s) := by
  unfold decodeMarker
  rw [apply_ite r.put, decodeMarkerCheck_put]
  rfl

theorem decodeHeaderDone_put : decodeHeaderDone (r.put s) = r.put (decodeHeaderDone s) :=
  decodeMarker_put r (setPhase .headerDone (loadCapacity s)) 0

theorem decodeExtLen_put : decodeExtLen (r.put s) = r.put (decodeExtLen s) := by
  unfold decodeExtLen
  dsimp only
  rw [apply_ite r.put, ← decodeExt_put]
  rfl

theorem decodePayloadLen_put : decodePayloadLen (r.put s) = r.put (decodePayloadLen s) := by
  unfold decodePayloadLen
  dsimp only
  rw [apply_ite r.put, ← decodePayload_put]
  rfl

theorem decodeGroup_put (f : Field) : decodeGroup f (r.put s) = r.put (decodeGroup f s) := by
  cases f with
  | marker n =>
    exact decodeMarker_put r { s with dmarker := setByte s.dmarker n (decodeByte (first8 s.session.group)) } (n + 1)
  | extLen => exact decodeExtLen_put r s
  | ext n =>
    exact decodeExt_put r { s with ext := setByte s.ext n (decodeByte (first8 s.session.group)) } (n + 1)
  | payloadLen => exact decodePayloadLen_put r s
  | payload n => rfl

theorem decodeDeliver_put (n : Nat) (b : Byte) (a : WriteResult) :
    decodeDeliver n b a (r.put s) = r.put (decodeDeliver n b a s) := by
  cases a with
  | ok => exact decodePayload_put r (poutDelivered b s) (n + 1)
  | err => rfl

/-! ### The carrier readers -/

theorem readHeader_put {after : State → State} (ha : ∀ t, after (r.put t) = r.put (after t)) (n : Fin 54)
    (a : ReadResult) : readHeader after n a (r.put s) = r.put (readHeader after n a s) := by
  cases a with
  | byte b =>
    unfold readHeader
    dsimp only
    rw [apply_ite r.put, apply_dite r.put, ← ha]
    rfl
  | endOfStream => rfl
  | err => rfl

theorem readGroup_put {after : Field → State → State} (ha : ∀ f t, after f (r.put t) = r.put (after f t)) (f : Field)
    (n : Fin 32) (a : ReadResult) : readGroup after f n a (r.put s) = r.put (readGroup after f n a s) := by
  cases a with
  | byte b =>
    unfold readGroup
    dsimp only
    rw [apply_dite r.put, ← ha]
    rfl
  | endOfStream => rfl
  | err => rfl

/-! ### Any answer -/

variable {s} {t : State}

theorem answerRead_put {a : ReadResult} (h : answerRead a s = .next t) : answerRead a (r.put s) = .next (r.put t) := by
  unfold answerRead at h
  split at h
  next => cases h
  next hk =>
    have hk' : (r.put s).session.kind = .encode := hk
    split at h <;> cases h
    next hc =>
      rw [answerRead_encode_header a hk' hc, readHeader_put r s (encodePreflight_put r)]
    next hc =>
      rw [answerRead_encode_fill a hk' hc, readGroup_put r s (fun f t => encodeGroup_put r t f)]
    next hc => rw [answerRead_payloadIn a hk' hc, encodeSin_put]
    next hc => rw [answerRead_tail a hk' hc, encodeTail_put]
  next hk =>
    have hk' : (r.put s).session.kind = .decode := hk
    split at h <;> cases h
    next hc =>
      rw [answerRead_decode_header a hk' hc, readHeader_put r s (decodeHeaderDone_put r)]
    next hc =>
      rw [answerRead_decode_fill a hk' hc, readGroup_put r s (fun f t => decodeGroup_put r t f)]

theorem answerWrite_put {a : WriteResult} (h : answerWrite a s = .next t) :
    answerWrite a (r.put s) = .next (r.put t) := by
  unfold answerWrite at h
  split at h
  next => cases h
  next hk =>
    have hk' : (r.put s).session.kind = .encode := hk
    split at h <;> cases h
    next hc => rw [answerWrite_headerOut a hk' hc, encodeHeaderOut_put]
    next hc => rw [answerWrite_emit a hk' hc, encodeEmit_put]
    next hc => rw [answerWrite_tailOut a hk' hc, encodeTailOut_put]
  next hk =>
    have hk' : (r.put s).session.kind = .decode := hk
    split at h <;> cases h
    next hc => rw [answerWrite_deliver a hk' hc, decodeDeliver_put]

/-- R89: an answered step with other contents of the host's registers ends in the same state with those contents. -/
theorem step_put {e : HostEvent} {rest : List HostEvent} (hr : s.rst = false) (hh : s.host = e :: rest)
    (he : isAnswer e = true) (h : step s = .next t) : step (r.put s) = .next (r.put t) := by
  have hr' : (r.put s).rst = false := hr
  have hh' : (r.put s).host = e :: rest := hh
  rw [step_running hr hh] at h
  rw [step_running hr' hh']
  cases e with
  | readAnswer a => exact answerRead_put r h
  | writeAnswer a => exact answerWrite_put r h
  | regRead | regWrite | rstAssert | rstRelease => cases he

/-- Settles O55: the other contents are put in before the step or after it. -/
theorem sessionIgnoresHostRegisters : Obligations.SessionIgnoresHostRegisters :=
  fun _ _ _ _ v c w i m g hr hh he h => step_put ⟨v, c, w, i, m, g⟩ hr hh he h

end Sys2Proof.Machine
end

section
/-! PROOF. One step, said whole: where it stops (20_memory.md rules R78, R90) and what each move of the host can change.
With no move nothing changes (R79, 60_exceptions.md rule R258), and in reset no bus transaction is answered
(70_reset_and_hazards.md rule R270). -/

namespace Sys2Proof.Machine

/-! ### Where a step stops -/

/-- R121: an accepted word, illegal or a command, has a next state. -/
theorem acceptCmd_next (w : Word) (s : State) : ∃ t, acceptCmd w s = .next t := by
  unfold acceptCmd
  split
  · exact exec_next _ s
  · exact ⟨_, rfl⟩

/-- R71: a bus write has a next state. -/
theorem regWrite_next (off : BitVec 8) (lanes : BitVec 4) (v : Word) (s : State) :
    ∃ t, regWrite off lanes v s = .next t := by
  have hc : ∀ u, ∃ t, writeCmd v u = .next t := by
    intro u
    unfold writeCmd
    split
    · exact ⟨_, rfl⟩
    · exact acceptCmd_next v _
  unfold regWrite
  split
  · split
    · exact hc _
    · split <;> exact ⟨_, rfl⟩
  · exact ⟨_, rfl⟩

/-- R78: a read answer has a next state when a read is pending, and is the fault otherwise. -/
theorem answerRead_outcome (r : ReadResult) (s : State) :
    (answerFits (.readAnswer r) s.pending = true ∧ ∃ t, answerRead r s = .next t) ∨
    (answerFits (.readAnswer r) s.pending = false ∧ answerRead r s = .fault .unsolicitedAnswer) := by
  unfold answerFits State.pending Session.pending answerRead
  cases s.session.kind with
  | none => simp
  | encode => cases s.session.cont <;> simp
  | decode => cases s.session.cont <;> simp

/-- R78: a write answer has a next state when a write is pending, and is the fault otherwise. -/
theorem answerWrite_outcome (w : WriteResult) (s : State) :
    (answerFits (.writeAnswer w) s.pending = true ∧ ∃ t, answerWrite w s = .next t) ∨
    (answerFits (.writeAnswer w) s.pending = false ∧ answerWrite w s = .fault .unsolicitedAnswer) := by
  unfold answerFits State.pending Session.pending answerWrite
  cases s.session.kind with
  | none => simp
  | encode => cases s.session.cont <;> simp
  | decode => cases s.session.cont <;> simp

/-- R90: a move of a running block has a next state when it fits, and is the fault otherwise. -/
theorem moveRunning_outcome (e : HostEvent) (s : State) :
    (answerFits e s.pending = true ∧ ∃ t, moveRunning e s = .next t) ∨
    (answerFits e s.pending = false ∧ moveRunning e s = .fault .unsolicitedAnswer) := by
  cases e with
  | regWrite off lanes v => exact .inl ⟨rfl, regWrite_next off lanes v s⟩
  | readAnswer r => exact answerRead_outcome r s
  | writeAnswer w => exact answerWrite_outcome w s
  | regRead | rstAssert | rstRelease => exact .inl ⟨rfl, _, rfl⟩

/-- Every step has a next state, or is the fault on a move that does not fit. -/
theorem step_outcome (s : State) :
    (∃ t, step s = .next t) ∨
    (step s = .fault .unsolicitedAnswer ∧ s.rst = false ∧
      ∃ e rest, s.host = e :: rest ∧ answerFits e s.pending = false) := by
  rcases hh : s.host with _ | ⟨e, rest⟩
  · exact .inl ⟨s, step_nil hh⟩
  · cases hr : s.rst
    · rw [step_running hr hh]
      obtain ⟨-, hn⟩ | ⟨hf, he⟩ := moveRunning_outcome e { s with host := rest }
      · exact .inl hn
      · exact .inr ⟨he, rfl, e, rest, rfl, hf⟩
    · exact .inl ⟨_, (step_cons hh).trans (hostMove_of_rst hr)⟩

/-- A running block stops on a move that does not fit. -/
theorem step_of_unfit {s : State} {e : HostEvent} {rest : List HostEvent} (hr : s.rst = false) (hh : s.host = e :: rest)
    (hf : answerFits e s.pending = false) : step s = .fault .unsolicitedAnswer := by
  rw [step_running hr hh]
  obtain ⟨ht, -⟩ | ⟨-, he⟩ := moveRunning_outcome e { s with host := rest }
  · exact absurd (hf.symm.trans ht) Bool.false_ne_true
  · exact he

/-- Settles O53: by the two outcomes of a step. -/
theorem stopsOnlyOnUnsolicitedAnswer : Obligations.StopsOnlyOnUnsolicitedAnswer := by
  refine fun s => ⟨fun r hr => ?_, fun f => ⟨fun hf => ?_, ?_⟩⟩
  · obtain ⟨t, ht⟩ | ⟨ht, -⟩ := step_outcome s <;> cases ht.symm.trans hr
  · obtain ⟨t, ht⟩ | ⟨ht, hu⟩ := step_outcome s <;> cases ht.symm.trans hf
    exact ⟨rfl, hu⟩
  · rintro ⟨rfl, hr, e, rest, hh, hu⟩
    exact step_of_unfit hr hh hu

/-! ### Steps that change nothing but the bus record -/

/-- Settles O59: a step takes the host's next move and there is none. -/
theorem noMoveKeepsEverything : Obligations.NoMoveKeepsEverything := fun _ => step_nil

theorem busAligned_eq_false {off : BitVec 8} {lanes : BitVec 4} (h : off.toNat % 4 ≠ 0 ∨ lanes ≠ 0xF) :
    busAligned off lanes = false := by
  rw [← Bool.not_eq_true, busAligned_iff]
  tauto

/-- R72: a write that is not carried out. -/
theorem regWrite_unaligned {off : BitVec 8} {lanes : BitVec 4} (v : Word) (s : State)
    (h : busAligned off lanes = false) : regWrite off lanes v s = .next (answerBus .busError s) := by
  simp [regWrite, h]

/-- R72: a read that is not carried out. -/
theorem regRead_unaligned {off : BitVec 8} {lanes : BitVec 4} (s : State) (h : busAligned off lanes = false) :
    regRead off lanes s = answerBus .busError s := by
  simp [regRead, h]

/-- Settles O13: neither transaction is carried out. -/
theorem busErrorChangesNothing : Obligations.BusErrorChangesNothing := by
  intro s rest off lanes hr hx hh
  have ha := busAligned_eq_false hx
  obtain ⟨v, hh⟩ | hh := hh <;> rw [step_running hr hh]
  · exact regWrite_unaligned v _ ha
  · exact congrArg Host.Outcome.next (regRead_unaligned { s with host := rest } ha)

/-- A move in reset leaves the bus record. -/
theorem moveInReset_bus (e : HostEvent) (s : State) : (moveInReset e s).bus = s.bus := by
  obtain h | h := moveInReset_cases e s <;> rw [h]
  exact releaseReset_bus s

/-- Settles O60: the assertion takes the bus record of reset, and in reset no move changes it. -/
theorem resetClearsBusRecord : Obligations.ResetClearsBusRecord := by
  constructor
  · intro s t rest hr hh h
    rw [step_running hr hh] at h
    cases h
    exact ⟨rfl, rfl⟩
  · intro s t hr hb h
    obtain ⟨-, rfl⟩ | ⟨e, rest, -, ⟨-, rfl⟩ | ⟨hr', -⟩⟩ := step_moves h
    · exact hb
    · exact (moveInReset_bus e _).trans hb
    · cases hr.symm.trans hr'

/-! ### What a step can change, by the kind of its move -/

/-- What a move of the host that is neither an answer nor a command nor the assertion of reset can change beside the
data registers: `CTRL` with `DONE`, `WIGN`, the reset input, the bus record and the list of moves. -/
structure HostSide where
  ie : Bool
  mchk : Bool
  done : Bool
  wign : Bool
  rst : Bool
  bus : Option BusAnswer
  host : List HostEvent

/-- The host's side of a state. -/
def HostSide.of (s : State) : HostSide :=
  ⟨s.ie, s.mchk, s.status.done, s.status.wign, s.rst, s.bus, s.host⟩

/-- The state with the host's side so. -/
def HostSide.put (x : HostSide) (s : State) : State :=
  { s with ie := x.ie, mchk := x.mchk, status := { s.status with done := x.done, wign := x.wign }, rst := x.rst,
           bus := x.bus, host := x.host }

/-- A bus write changes the host's side only, but for the data register or the command an idle block takes from it. -/
theorem regWrite_inversion {off : BitVec 8} {lanes : BitVec 4} {v : Word} {s t : State}
    (h : regWrite off lanes v s = .next t) :
    (∃ x : HostSide, t = x.put s) ∨
    (s.status.busy = false ∧ ∃ x : HostSide,
      (t = storeRwData off v (x.put s) ∨ acceptCmd v { x.put s with cmd := v } = .next t)) := by
  obtain ⟨-, rfl⟩ | ⟨-, ⟨-, rfl⟩ | ⟨-, rfl⟩ | ⟨-, -, -, rfl⟩ | ⟨hi, -, rfl⟩ | ⟨hi, -, hc⟩⟩ := regWrite_cases h
  · exact .inl ⟨{ HostSide.of s with bus := some .busError }, rfl⟩
  · exact .inl ⟨{ HostSide.of s with ie := v.getLsbD 0, mchk := v.getLsbD 2, done := _, bus := some .ok }, rfl⟩
  · exact .inl ⟨{ HostSide.of s with wign := true, bus := some .ok }, rfl⟩
  · exact .inl ⟨{ HostSide.of s with bus := some .ok }, rfl⟩
  · exact .inr ⟨hi, { HostSide.of s with bus := some .ok }, .inl rfl⟩
  · exact .inr ⟨hi, { HostSide.of s with bus := some .ok }, .inr hc⟩

/-- A step is an answer, the assertion of reset, a change of the host's side only, or the data register or the command
that an idle block takes from a bus write. -/
theorem step_inversion {s t : State} (h : step s = .next t) :
    (∃ rest, (∃ r, s.host = .readAnswer r :: rest ∧ answerRead r { s with host := rest } = .next t) ∨
      ∃ w, s.host = .writeAnswer w :: rest ∧ answerWrite w { s with host := rest } = .next t) ∨
    (∃ u, t = assertReset u) ∨ (∃ x : HostSide, t = x.put s) ∨
    (s.status.busy = false ∧ ∃ (off : BitVec 8) (v : Word) (x : HostSide),
      (t = storeRwData off v (x.put s) ∨ acceptCmd v { x.put s with cmd := v } = .next t)) := by
  obtain ⟨-, rfl⟩ | ⟨e, rest, hh, ⟨-, rfl⟩ | ⟨-, hm⟩⟩ := step_moves h
  · exact .inr (.inr (.inl ⟨HostSide.of t, rfl⟩))
  · obtain he | he := moveInReset_cases e { s with host := rest } <;> rw [he]
    · exact .inr (.inr (.inl ⟨{ HostSide.of s with host := rest }, rfl⟩))
    · exact .inr (.inr (.inl ⟨{ HostSide.of s with rst := false, host := rest }, rfl⟩))
  · obtain ⟨off, lanes, -, rfl⟩ | ⟨off, lanes, v, -, hw⟩ | ⟨r, rfl, ha⟩ | ⟨w, rfl, ha⟩ | ⟨-, rfl⟩ | ⟨-, rfl⟩ :=
      moveRunning_cases hm
    · obtain ⟨a, he⟩ := regRead_eq off lanes { s with host := rest }
      exact .inr (.inr (.inl ⟨{ HostSide.of s with bus := some a, host := rest }, he⟩))
    · obtain ⟨x, hx⟩ | ⟨hi, x, hx⟩ := regWrite_inversion hw
      · exact .inr (.inr (.inl ⟨x, hx⟩))
      · exact .inr (.inr (.inr ⟨hi, off, v, x, hx⟩))
    · exact .inl ⟨rest, .inl ⟨r, hh, ha⟩⟩
    · exact .inl ⟨rest, .inr ⟨w, hh, ha⟩⟩
    · exact .inr (.inl ⟨_, rfl⟩)
    · exact .inr (.inr (.inl ⟨{ HostSide.of s with host := rest }, rfl⟩))

end Sys2Proof.Machine
end

section
/-! PROOF. The acceptance of DECODE (44_frame_decode.md rule R210), and what an answer does to the four ports and their
counters (20_memory.md rule R78): it advances its own, and what a session rule computes after it moves none. -/

namespace Sys2Proof.Machine

/-- Settles O32: the session that starts, with the records of SIN and COUT empty as well. -/
theorem decodeStarts : Obligations.DecodeStarts := fun s =>
  ⟨{ Session.idle with kind := .decode, cont := .header 0, mchkL := s.mchk }, [], [], rfl, rfl, rfl, rfl⟩

/-! ### What moves no port -/

/-- The port records and their counters. -/
structure Traffic where
  cin : List Byte
  cinPos : BitVec 64
  sin : List Byte
  sinPos : Word
  cout : List Byte
  pout : List Byte
  outPos : BitVec 64

def State.traffic (s : State) : Traffic := ⟨s.cin, s.cinPos, s.sin, s.sinPos, s.cout, s.pout, s.outPos⟩

variable (s : State)

theorem encodePayload_traffic (n : Nat) : (encodePayload n s).traffic = s.traffic := by
  unfold encodePayload
  split <;> rfl

theorem encodeExt_traffic (n : Nat) : (encodeExt n s).traffic = s.traffic := by
  unfold encodeExt
  split <;> rfl

theorem encodeMarker_traffic (n : Nat) : (encodeMarker n s).traffic = s.traffic := by
  unfold encodeMarker
  split <;> rfl

theorem encodeAfter_traffic (f : Field) : (encodeAfter f s).traffic = s.traffic := by
  cases f with
  | marker n => exact encodeMarker_traffic s (n + 1)
  | extLen => exact encodeExt_traffic _ 0
  | ext n => exact encodeExt_traffic s (n + 1)
  | payloadLen => exact encodePayload_traffic _ 0
  | payload n => exact encodePayload_traffic s (n + 1)

theorem encodePreflight_traffic : (encodePreflight s).traffic = s.traffic := by
  unfold encodePreflight
  dsimp only
  split <;> rfl

theorem encodeGroup_traffic (f : Field) : (encodeGroup f s).traffic = s.traffic := rfl

theorem decodePayload_traffic (n : Nat) : (decodePayload n s).traffic = s.traffic := by
  unfold decodePayload
  split <;> rfl

theorem decodeExt_traffic (n : Nat) : (decodeExt n s).traffic = s.traffic := by
  unfold decodeExt
  split <;> rfl

theorem decodeMarker_traffic (n : Nat) : (decodeMarker n s).traffic = s.traffic := by
  obtain ⟨-, he⟩ | ⟨-, -, -, he⟩ | ⟨-, -, he⟩ := decodeMarker_cases n s <;> rw [he] <;> rfl

theorem decodeHeaderDone_traffic : (decodeHeaderDone s).traffic = s.traffic := decodeMarker_traffic _ 0

theorem decodeExtLen_traffic : (decodeExtLen s).traffic = s.traffic := by
  unfold decodeExtLen
  dsimp only
  split
  · exact decodeExt_traffic _ 0
  · rfl

theorem decodePayloadLen_traffic : (decodePayloadLen s).traffic = s.traffic := by
  unfold decodePayloadLen
  dsimp only
  split
  · exact decodePayload_traffic _ 0
  · rfl

theorem decodeGroup_traffic (f : Field) : (decodeGroup f s).traffic = s.traffic := by
  cases f with
  | marker n => exact decodeMarker_traffic _ (n + 1)
  | extLen => exact decodeExtLen_traffic s
  | ext n => exact decodeExt_traffic _ (n + 1)
  | payloadLen => exact decodePayloadLen_traffic s
  | payload n => rfl

/-! ### What an answer moves -/

theorem encodeHeaderOut_ok_traffic (k : Fin 54) :
    (encodeHeaderOut k .ok s).traffic = (coutDelivered (s.session.hdr.get k) s).traffic := by
  unfold encodeHeaderOut
  dsimp only
  split
  · rfl
  · exact encodeMarker_traffic _ 0

theorem encodeEmit_ok_traffic (f : Field) (k : Fin 32) :
    (encodeEmit f k .ok s).traffic = (coutDelivered (s.session.group.get k) s).traffic := by
  unfold encodeEmit
  dsimp only
  split
  · rfl
  · exact encodeAfter_traffic _ f

theorem decodeDeliver_ok_traffic (k : Nat) (b : Byte) :
    (decodeDeliver k b .ok s).traffic = (poutDelivered b s).traffic := decodePayload_traffic _ (k + 1)

theorem readHeader_byte_traffic {after : State → State} (ha : ∀ t, (after t).traffic = t.traffic) (k : Fin 54)
    (b : Byte) : (readHeader after k (.byte b) s).traffic = (cinReceived b s).traffic := by
  obtain ⟨-, -, -, hn⟩ | ⟨c, hc, h⟩ := readHeader_cases after k (.byte b) s
  · exact absurd rfl (hn b)
  · cases hc
    obtain ⟨-, -, he⟩ | ⟨-, _, he⟩ | ⟨-, he⟩ := h <;> rw [he]
    · rfl
    · rfl
    · exact ha _

theorem readGroup_byte_traffic {after : Field → State → State} (ha : ∀ f t, (after f t).traffic = t.traffic)
    (f : Field) (k : Fin 32) (b : Byte) : (readGroup after f k (.byte b) s).traffic = (cinReceived b s).traffic := by
  obtain ⟨-, hn⟩ | ⟨c, hc, h⟩ := readGroup_cases after f k (.byte b) s
  · exact absurd rfl (hn b)
  · cases hc
    obtain ⟨-, _, he⟩ | ⟨-, he⟩ := h <;> rw [he]
    · rfl
    · exact ha f _

variable {s} {t : State}

/-- R53: the pending transaction is read off the kind and the point of the session. -/
theorem pending_at {k : Kind} {c : Cont} (hk : s.session.kind = k) (hc : s.session.cont = c) :
    s.pending = Session.pending { s.session with kind := k, cont := c } := by
  subst hk hc
  rfl

/-- R78: a byte answered to the pending read. -/
theorem answerRead_byte_traffic {b : Byte} (h : answerRead (.byte b) s = .next t) :
    (s.pending = some .cinRead → t.traffic = (cinReceived b s).traffic) ∧
    (s.pending = some .sinRead → t.traffic = (sinReceived b s).traffic) := by
  have hcin : s.pending = some .cinRead → t.traffic = (cinReceived b s).traffic →
      (s.pending = some .cinRead → t.traffic = (cinReceived b s).traffic) ∧
      (s.pending = some .sinRead → t.traffic = (sinReceived b s).traffic) := by
    intro hp ht
    rw [hp]
    exact ⟨fun _ => ht, nofun⟩
  unfold answerRead at h
  split at h
  next => cases h
  next hk =>
    split at h <;> cases h
    next hc => exact hcin (pending_at hk hc) (readHeader_byte_traffic s encodePreflight_traffic _ b)
    next hc => exact hcin (pending_at hk hc) (readGroup_byte_traffic s (fun f t => encodeGroup_traffic t f) _ _ b)
    next hc =>
      have hp : s.pending = some .sinRead := pending_at hk hc
      rw [hp]
      exact ⟨nofun, fun _ => rfl⟩
    next hc => exact hcin (pending_at hk hc) rfl
  next hk =>
    split at h <;> cases h
    next hc => exact hcin (pending_at hk hc) (readHeader_byte_traffic s decodeHeaderDone_traffic _ b)
    next hc => exact hcin (pending_at hk hc) (readGroup_byte_traffic s (fun f t => decodeGroup_traffic t f) _ _ b)

/-- R78: `Ok` answered to the pending write. -/
theorem answerWrite_ok_traffic {b : Byte} (h : answerWrite .ok s = .next t) :
    (s.pending = some (.coutWrite b) → t.traffic = (coutDelivered b s).traffic) ∧
    (s.pending = some (.poutWrite b) → t.traffic = (poutDelivered b s).traffic) := by
  have hcout : ∀ a, s.pending = some (.coutWrite a) → t.traffic = (coutDelivered a s).traffic →
      (s.pending = some (.coutWrite b) → t.traffic = (coutDelivered b s).traffic) ∧
      (s.pending = some (.poutWrite b) → t.traffic = (poutDelivered b s).traffic) := by
    intro a hp ht
    rw [hp]
    refine ⟨?_, nofun⟩
    rintro ⟨⟩
    exact ht
  unfold answerWrite at h
  split at h
  next => cases h
  next hk =>
    split at h <;> cases h
    next hc => exact hcout _ (pending_at hk hc) (encodeHeaderOut_ok_traffic s _)
    next hc => exact hcout _ (pending_at hk hc) (encodeEmit_ok_traffic s _ _)
    next hc => exact hcout _ (pending_at hk hc) rfl
  next hk =>
    split at h <;> cases h
    next k a hc =>
      have hp : s.pending = some (.poutWrite a) := pending_at hk hc
      rw [hp]
      refine ⟨nofun, ?_⟩
      rintro ⟨⟩
      exact decodeDeliver_ok_traffic s k _

/-- R78, R80: `End` and `Err` advance nothing. -/
theorem answerRead_noByte_traffic {r : ReadResult} (hr : ∀ b, r ≠ .byte b) (h : answerRead r s = .next t) :
    t.traffic = s.traffic := by
  unfold answerRead at h
  cases r with
  | byte b => exact absurd rfl (hr b)
  | endOfStream | err =>
    split at h
    · cases h
    · split at h <;> cases h <;> rfl
    · split at h <;> cases h <;> rfl

/-- R78: `Err` on a write advances nothing. -/
theorem answerWrite_err_traffic (h : answerWrite .err s = .next t) : t.traffic = s.traffic := by
  unfold answerWrite at h
  split at h
  · cases h
  · split at h <;> cases h <;> rfl
  · split at h <;> cases h; rfl

/-- Settles O40: the port records and counters of each fitting answer, component by component. -/
theorem answersAdvancePorts : Obligations.AnswersAdvancePorts := by
  intro s t rest hr h
  have hread : ∀ {r}, s.host = .readAnswer r :: rest → answerRead r { s with host := rest } = .next t := fun hh =>
    (step_readAnswer hr hh).symm.trans h
  have hwrite : ∀ {w}, s.host = .writeAnswer w :: rest → answerWrite w { s with host := rest } = .next t := fun hh =>
    (step_writeAnswer hr hh).symm.trans h
  refine ⟨fun b hh hp => ?_, fun b hh hp => ?_, fun b hh hp => ?_, fun b hh hp => ?_, fun hh => ?_⟩
  · have ht := (answerRead_byte_traffic (hread hh)).1 hp
    injection ht with h1 h2 h3 h4 h5 h6 h7
    exact ⟨h1, h2, h3, h4, h5, h6, h7⟩
  · have ht := (answerRead_byte_traffic (hread hh)).2 hp
    injection ht with h1 h2 h3 h4 h5 h6 h7
    exact ⟨h3, h4, h1, h2, h5, h6, h7⟩
  · have ht := (answerWrite_ok_traffic (hwrite hh)).1 hp
    injection ht with h1 h2 h3 h4 h5 h6 h7
    exact ⟨h5, h7, h1, h2, h3, h4, h6⟩
  · have ht := (answerWrite_ok_traffic (hwrite hh)).2 hp
    injection ht with h1 h2 h3 h4 h5 h6 h7
    exact ⟨h6, h7, h1, h2, h3, h4, h5⟩
  · have ht : t.traffic = s.traffic := by
      obtain hh | hh | hh := hh
      · exact answerRead_noByte_traffic (s := { s with host := rest }) (by simp) (hread hh)
      · exact answerRead_noByte_traffic (s := { s with host := rest }) (by simp) (hread hh)
      · exact answerWrite_err_traffic (s := { s with host := rest }) (hwrite hh)
    injection ht with h1 h2 h3 h4 h5 h6 h7
    exact ⟨⟨h1, h3, h5, h6⟩, h2, h4, h7⟩

end Sys2Proof.Machine
end

section
/-! PROOF. The frame in a stego image (20_memory.md rule R82, 43_frame_encode.md rule R194): its size beside the
capacity check (42_capacity.md rule R164), its bits, and its fields, which read back from the image. -/

namespace Sys2Proof.Machine

/-! ### Its size -/

theorem frameEnd_sub_header (p : Params) (el pl : Nat) :
    frameEnd p el pl - 54 = 8 * (p.markerLen.val + el + pl) + 64 := by
  unfold frameEnd
  omega

/-- R164: the check asks for 32 bits more than the frame has. -/
theorem requiredBits_eq_frame (p : Params) (el pl : Nat) :
    requiredBits p.markerLen.val el pl = frameEnd p el pl - 54 + 32 := by
  unfold requiredBits frameEnd
  omega

/-- Settles O29: the required bits are the frame's size and 32 more. -/
theorem capacityMargin : Obligations.CapacityMargin := by
  intro p el pl cap
  rw [hasCapacity_iff, ← Bool.not_eq_true, hasCapacity_iff, requiredBits_eq_frame]
  exact ⟨frameEnd_sub_header p el pl, by omega, id, by omega⟩

theorem fieldStart_payload_frameEnd (p : Params) (el pl : Nat) : fieldStart p el (.payload pl) = frameEnd p el pl := rfl

variable {p : Params} {el ext pl : Word} {payload carrier out : List Byte}

/-! ### Its bits -/

/-- R82: there is a frame bit at every offset of the frame. -/
theorem frameBit_of_frame {k : Nat} (h54 : 54 ≤ k) (hk : k < frameEnd p el.toNat payload.length) :
    ∃ v, frameBit p el ext pl payload k = some v := by
  by_cases h0 : fieldStart p el.toNat (.payload 0) ≤ k
  · have hlt : (k - fieldStart p el.toNat (.payload 0)) / 8 < payload.length := by
      unfold frameEnd at hk
      rw [fieldStart_payload] at h0 ⊢
      omega
    rw [frameBit_after _ _ _ _ _ h0, List.getElem?_eq_getElem hlt]
    exact ⟨_, rfl⟩
  · unfold frameBit
    rw [if_neg (by omega)]
    split_ifs
    case neg => omega
    all_goals exact ⟨_, rfl⟩

@[simp] theorem lsb_stegoByte {k : Nat} {v : Bool} (b : Byte) (hv : frameBit p el ext pl payload k = some v) :
    lsb (stegoByte p el ext pl payload k b) = v := by
  simp [stegoByte, hv]

theorem stegoByte_of_none {k : Nat} (b : Byte) (hv : frameBit p el ext pl payload k = none) :
    stegoByte p el ext pl payload k b = b := by
  simp [stegoByte, hv]

@[simp] theorem stegoByte_high (k : Nat) (b : Byte) :
    (stegoByte p el ext pl payload k b).extractLsb' 1 7 = b.extractLsb' 1 7 := by
  unfold stegoByte
  split
  · exact setLsb_high b _
  · rfl

namespace IsStego

/-- Every byte of the image is the stego byte of the carrier byte at its place. -/
theorem getElem?_eq (h : IsStego p el ext pl payload carrier out) {k : Nat} (hk : k < out.length) :
    ∃ b, carrier[k]? = some b ∧ out[k]? = some (stegoByte p el ext pl payload k b) := by
  have hc : k < carrier.length := Nat.lt_of_lt_of_le hk h.1
  refine ⟨carrier[k], List.getElem?_eq_getElem hc, ?_⟩
  rw [h.2 k hk, List.getElem?_eq_getElem hc]
  rfl

/-- R194 (e): bit 0 of the image at an offset of the frame. -/
theorem lsb_eq (h : IsStego p el ext pl payload carrier out) {k : Nat} {v : Bool} (hk : k < out.length)
    (hv : frameBit p el ext pl payload k = some v) : ∃ b, out[k]? = some b ∧ lsb b = v := by
  obtain ⟨b, -, ho⟩ := h.getElem?_eq hk
  exact ⟨_, ho, lsb_stegoByte b hv⟩

/-- R194 (c), (d): outside the frame a whole image is the carrier. -/
theorem eq_of_none (h : IsStego p el ext pl payload carrier out) (hl : out.length = carrier.length) {k : Nat}
    (hv : frameBit p el ext pl payload k = none) : out[k]? = carrier[k]? := by
  by_cases hk : k < out.length
  · obtain ⟨b, hc, ho⟩ := h.getElem?_eq hk
    rw [hc, ho, stegoByte_of_none b hv]
  · rw [List.getElem?_eq_none (by omega), List.getElem?_eq_none (by omega)]

/-- R194 (c): the header is copied. -/
theorem take_header (h : IsStego p el ext pl payload carrier out) (hl : out.length = carrier.length) :
    out.take 54 = carrier.take 54 := by
  refine List.ext_getElem? fun k => ?_
  rw [List.getElem?_take, List.getElem?_take]
  split_ifs with hk
  · exact h.eq_of_none hl (frameBit_header _ _ _ _ _ hk)
  · rfl

/-- R194 (b): bits 7:1 are the carrier's. -/
theorem high_eq (h : IsStego p el ext pl payload carrier out) {k : Nat} {a b : Byte} (ha : carrier[k]? = some a)
    (hb : out[k]? = some b) : b.extractLsb' 1 7 = a.extractLsb' 1 7 := by
  obtain ⟨c, hc, ho⟩ := h.getElem?_eq (List.getElem?_eq_some_iff.mp hb).1
  cases hc.symm.trans ha
  cases ho.symm.trans hb
  exact stegoByte_high k a

/-! ### Its fields -/

/-- A group of the image decodes to the value whose bits are the frame bits of its offsets (41_bitpacker.md rule
R144). -/
theorem decodeBits_eq {n : Nat} {v : BitVec n} {start : Nat} (h : IsStego p el ext pl payload carrier out)
    (hl : start + n ≤ out.length) (hv : ∀ j, j < n → frameBit p el ext pl payload (start + j) = some (v.getMsbD j)) :
    decodeBits (Vector.ofFn fun k : Fin n => out.getD (start + k.val) 0) = v := by
  refine (decodeBits_eq_iff _ v).mpr fun k => ?_
  obtain ⟨b, ho, hb⟩ := h.lsb_eq (by omega) (hv k.val k.isLt)
  simp [Vector.get_eq_getElem, List.getD_eq_getElem?_getD, ho, hb]

end IsStego

/-- Settles O44: the frame bits of each field are those of its value. -/
theorem frameReadsBack : Obligations.FrameReadsBack := by
  intro p el ext pl payload carrier out h hlen hf hpl
  rw [← hlen] at hf
  unfold frameEnd at hf
  refine ⟨fun k hk => ?_, ?_, fun k hk => ?_, ?_, fun k hk => ?_⟩
  · exact h.decodeBits_eq (by rw [fieldStart_marker]; omega) fun j hj => frameBit_marker p el ext pl payload hk hj
  · exact h.decodeBits_eq (by rw [fieldStart_extLen]; omega) fun j hj => frameBit_extLen p el ext pl payload hj
  · exact h.decodeBits_eq (by rw [fieldStart_ext]; omega) fun j hj => frameBit_ext p el ext pl payload hk hj
  · exact h.decodeBits_eq (by rw [fieldStart_payloadLen]; omega) fun j hj => frameBit_payloadLen p el ext pl payload hj
  · have hb : payload[k]? = some payload[k] := List.getElem?_eq_getElem (hpl ▸ hk)
    rw [hb]
    refine congrArg some (Eq.symm (h.decodeBits_eq (by rw [fieldStart_payload]; omega) fun j hj => ?_))
    rw [fieldStart_payload, frameBit_payload p el ext pl payload hj, hb]
    rfl

end Sys2Proof.Machine
end

section
/-! PROOF. The trace invariant of ENCODE is kept by every step (43_frame_encode.md rules R182 to R192). Each session
rule is shown to lead from a point of the program, with what was carried so far, to the next one. -/

namespace Sys2Proof.Machine

/-! ### The bytes of a group and of the header -/

theorem getElem?_append_of_eq_some {l : List Byte} {j : Nat} {a : Byte} (b : Byte) (h : l[j]? = some a) :
    (l ++ [b])[j]? = some a := by
  rw [List.getElem?_append_left (List.getElem?_eq_some_iff.mp h).1, h]

theorem groupByte_eq_get (g : Vector Byte 32) (k : Fin 32) : groupByte g k.val = g.get k := dif_pos k.isLt

theorem headerByte_eq_get (h : Vector Byte 54) (k : Fin 54) : headerByte h k.val = h.get k := dif_pos k.isLt

/-- R142: byte `j` of an encoded 32-bit group. -/
theorem groupByte_encodeInt32 (w : Word) (g : Vector Byte 32) {j : Nat} (hj : j < 32) :
    groupByte (encodeInt32 w g) j = setLsb (groupByte g j) (w.getMsbD j) := by
  simp only [groupByte, hj, dite_true]
  exact encodeBits_get w g ⟨j, hj⟩

/-- R140: byte `j` of an encoded byte group. -/
theorem groupByte_encodeByte (v : Byte) (g : Vector Byte 32) {j : Nat} (hj : j < 8) :
    groupByte (putFirst8 g (encodeByte v (first8 g))) j = setLsb (groupByte g j) (v.getMsbD j) := by
  have h32 : j < 32 := by omega
  simp only [groupByte, h32, dite_true, putFirst8_get, hj]
  rw [encodeByte, encodeBits_get, first8_get]
  rfl

theorem stegoByte_of_some {p : Params} {el ext pl : Word} {sin : List Byte} {off : Nat} {v : Bool} (b : Byte)
    (h : frameBit p el ext pl sin off = some v) : stegoByte p el ext pl sin off b = setLsb b v := by
  simp [stegoByte, h]

/-- R186 to R191: a group is encoded to the stego bytes at the offsets of its field. -/
theorem groupByte_encodedGroup {p : Params} {x : Session} {sin : List Byte} {f : Field} {j : Nat}
    (hf : fieldInFrame p x.el.toNat x.pl.toNat f) (hs : ∀ k, f = .payload k → sin[k]? = some x.sinByte)
    (hj : j < groupSize f) :
    groupByte (encodedGroup p x f) j =
      stegoByte p x.el x.ext x.pl sin (fieldStart p x.el.toNat f + j) (groupByte x.group j) := by
  cases f with
  | marker k =>
    exact (groupByte_encodeByte _ _ hj).trans (stegoByte_of_some _ (frameBit_marker p _ _ _ _ hf hj)).symm
  | extLen => exact (groupByte_encodeInt32 _ _ hj).trans (stegoByte_of_some _ (frameBit_extLen p _ _ _ _ hj)).symm
  | ext k => exact (groupByte_encodeByte _ _ hj).trans (stegoByte_of_some _ (frameBit_ext p _ _ _ _ hf hj)).symm
  | payloadLen =>
    exact (groupByte_encodeInt32 _ _ hj).trans (stegoByte_of_some _ (frameBit_payloadLen p _ _ _ _ hj)).symm
  | payload k =>
    refine (groupByte_encodeByte _ _ hj).trans (stegoByte_of_some _ ?_).symm
    rw [fieldStart_payload, frameBit_payload p _ _ _ _ hj, hs k rfl]
    rfl

/-! ### The parts of the invariant -/

/-- The trace invariant of a running ENCODE but for its point in the program. -/
structure EncodeRuns (s : State) : Prop where
  kind : s.session.kind = .encode
  el_eq : s.session.el = s.extLen
  ext_eq : s.session.ext = s.ext
  pl_eq : s.session.pl = s.payloadLen
  el_le : s.session.el.toNat ≤ s.params.extMax.val
  pl_le : s.session.pl.toNat ≤ s.params.payloadMax.toNat
  busy : s.status.busy = true
  checked : s.status.capOk = true → EncodeChecked s
  stego : IsStego s.params s.session.el s.session.ext s.session.pl s.sin s.cin s.cout

theorem EncodeTrace.runs {s : State} (h : EncodeTrace s) (hk : s.session.kind = .encode) : EncodeRuns s :=
  ⟨hk, h.el_eq hk, h.ext_eq hk, h.pl_eq hk, h.el_le hk, h.pl_le hk, h.busy hk, h.checked hk, h.stego hk⟩

theorem EncodeRuns.trace {s : State} (h : EncodeRuns s) (hp : EncodePoint s) : EncodeTrace s where
  el_eq _ := h.el_eq
  ext_eq _ := h.ext_eq
  pl_eq _ := h.pl_eq
  el_le _ := h.el_le
  pl_le _ := h.pl_le
  busy _ := h.busy
  checked _ := h.checked
  stego _ := h.stego
  point _ := hp

/-- The end of a session, whatever its error, ends the trace. -/
theorem encodeTrace_complete (e : ErrKind) (s : State) : EncodeTrace (complete e s) := encodeTrace_of_kind nofun

theorem HeaderRead.cinReceived {s : State} {k : Nat} (h : HeaderRead s k) (b : Byte) :
    HeaderRead (cinReceived b s) k :=
  ⟨fun j hj => getElem?_append_of_eq_some b (h.1 j hj), h.2⟩

/-- R182, R183: the next header byte is taken, and the signature compared once both its bytes are there. -/
theorem HeaderRead.storeHeader {s : State} {k : Fin 54} (h : HeaderRead s k.val) (b : Byte)
    (hl : s.cin.length = k.val) (h1 : k.val = 1 → signatureOk (s.session.hdr.set k.val b) = true) :
    HeaderRead (storeHeader k b (Machine.cinReceived b s)) (k.val + 1) := by
  constructor
  · intro j hj
    rw [storeHeader_cin, cinReceived_cin, storeHeader_session_hdr, cinReceived_session, headerByte_set _ _ _ (by omega)]
    split_ifs with hjk
    · rw [hjk, ← hl]
      simp
    · exact getElem?_append_of_eq_some b (h.1 j (by omega))
  · intro h2
    by_cases hk : k.val = 1
    · exact h1 hk
    · have h0 : k.val ≠ 0 := by omega
      have := h.2 (by omega)
      simpa [signatureOk, Vector.get_eq_getElem, Vector.getElem_set, h0, hk] using this

namespace EncodeRuns

variable {s : State} (h : EncodeRuns s)
include h

theorem setPhase (p : Phase) : EncodeRuns (setPhase p s) :=
  { h with checked := fun hc => { h.checked hc with } }

theorem cinReceived (b : Byte) : EncodeRuns (cinReceived b s) :=
  { h with
    checked := fun hc => { h.checked hc with header := (h.checked hc).header.cinReceived b }
    stego := h.stego.carrier_append b }

theorem coutDelivered {b : Byte}
    (hb : some b = (s.cin[s.cout.length]?).map
      (stegoByte s.params s.session.el s.session.ext s.session.pl s.sin s.cout.length)) :
    EncodeRuns (coutDelivered b s) :=
  { h with checked := fun hc => { h.checked hc with }, stego := h.stego.out_append b hb }

theorem sinReceived (b : Byte)
    (hl : s.cout.length ≤ fieldStart s.params s.session.el.toNat (.payload s.sin.length)) :
    EncodeRuns (sinReceived b s) :=
  { h with checked := fun hc => { h.checked hc with }, stego := h.stego.payload_append b hl }

/-- A session item that neither the operands nor the header check use. -/
theorem work (c : Cont) (g : Vector Byte 32) (b : Byte) :
    EncodeRuns { s with session := { s.session with cont := c, group := g, sinByte := b } } :=
  { h with checked := fun hc => { h.checked hc with } }

theorem await (c : Cont) : EncodeRuns (await c s) := h.work c s.session.group s.session.sinByte

/-- Before the capacity check the header buffer and the dimensions may change. -/
theorem header (hc : s.status.capOk = false) (hdr : Vector Byte 54) (w v : Word) :
    EncodeRuns { s with session := { s.session with hdr := hdr }, width := w, height := v } :=
  { h with checked := fun ht => absurd (hc.symm.trans ht) Bool.false_ne_true }

end EncodeRuns

/-! ### From one field to the next -/

/-- A running ENCODE past its capacity check has read and written `off` carrier bytes, and read `n` payload bytes. -/
structure EncodeAt (s : State) (off n : Nat) : Prop where
  runs : EncodeRuns s
  cin : s.cin.length = off
  cout : s.cout.length = off
  sin : s.sin.length = n
  capOk : s.status.capOk = true

namespace EncodeAt

variable {s : State} {off n : Nat}

theorem setPhase (h : EncodeAt s off n) (p : Phase) : EncodeAt (setPhase p s) off n :=
  { h with runs := h.runs.setPhase p }

/-- R186: the group of a field is read next. -/
theorem startGroup {f : Field} (h : EncodeAt s (fieldStart s.params s.session.el.toNat f) (sinTaken f))
    (hf : fieldInFrame s.params s.session.el.toNat s.session.pl.toNat f)
    (hs : ∀ k, f = .payload k → s.sin[k]? = some s.session.sinByte) (hp : s.status.phase = phaseBefore f) :
    EncodeTrace (startGroup f s) :=
  (h.runs.await _).trace
    ⟨hf, groupSize_pos f, h.sin, hs, h.cin, h.cout, fun j hj => absurd hj (Nat.not_lt_zero j), hp, h.capOk⟩

/-- R191, R192: the next payload byte, or the tail. -/
theorem encodePayload {k : Nat} (h : EncodeAt s (fieldStart s.params s.session.el.toNat (.payload k)) k)
    (hk : k ≤ s.session.pl.toNat) (hp : s.status.phase = .payloadLenDone) : EncodeTrace (encodePayload k s) := by
  unfold Machine.encodePayload
  split_ifs with hlt
  · exact (h.runs.await _).trace ⟨hlt, h.sin, h.cin, h.cout.trans h.cin.symm, hp, h.capOk⟩
  · have hpl : k = s.session.pl.toNat := by omega
    rw [hpl] at h
    exact ((h.runs.setPhase _).await _).trace ⟨h.sin, h.cin.ge, h.cout.trans h.cin.symm, rfl, h.capOk⟩

/-- R189, R190: the next extension character, or the payload length. -/
theorem encodeExt {k : Nat} (h : EncodeAt s (fieldStart s.params s.session.el.toNat (.ext k)) 0)
    (hk : k ≤ s.session.el.toNat) (hp : s.status.phase = .extLenDone) : EncodeTrace (encodeExt k s) := by
  unfold Machine.encodeExt
  split_ifs with hlt
  · exact h.startGroup hlt nofun hp
  · have hoff : fieldStart s.params s.session.el.toNat (.ext k) =
        fieldStart s.params s.session.el.toNat .payloadLen := by
      rw [fieldStart_ext, fieldStart_payloadLen]
      omega
    rw [hoff] at h
    exact (h.setPhase .extDone).startGroup trivial nofun rfl

/-- R187, R188: the next marker byte, or the extension length. -/
theorem encodeMarker {k : Nat} (h : EncodeAt s (fieldStart s.params s.session.el.toNat (.marker k)) 0)
    (hk : k ≤ s.params.markerLen.val) (hp : s.status.phase = .headerDone) : EncodeTrace (encodeMarker k s) := by
  unfold Machine.encodeMarker
  split_ifs with hlt
  · exact h.startGroup hlt nofun hp
  · have hoff : k = s.params.markerLen.val := by omega
    rw [hoff] at h
    exact (h.setPhase .markerDone).startGroup (f := .extLen) trivial nofun rfl

/-- What follows a field starts where its group ends. -/
theorem encodeAfter {f : Field} (h : EncodeAt s (fieldStart s.params s.session.el.toNat f + groupSize f) (sinTaken f))
    (hf : fieldInFrame s.params s.session.el.toNat s.session.pl.toNat f) (hp : s.status.phase = phaseBefore f) :
    EncodeTrace (encodeAfter f s) := by
  cases f with
  | marker k => exact encodeMarker (k := k + 1) h hf hp
  | extLen => exact encodeExt (h.setPhase .extLenDone) (Nat.zero_le _) rfl
  | ext k => exact encodeExt (k := k + 1) h hf hp
  | payloadLen => exact encodePayload (h.setPhase .payloadLenDone) (Nat.zero_le _) rfl
  | payload k => exact encodePayload (k := k + 1) h hf hp

end EncodeAt

/-! ### The rules, each from its own point -/

variable {s : State}

/-- R184: the capacity check, with the header read and nothing delivered. -/
theorem encodePreflight_trace (h : EncodeRuns s) (hh : HeaderRead s 54) (hw : s.width = headerWidth s.session.hdr)
    (hv : s.height = headerHeight s.session.hdr) (hi : s.cin.length = 54) (ho : s.cout = []) (hs : s.sin = [])
    (hp : s.status.phase = .idle) : EncodeTrace (encodePreflight s) := by
  unfold encodePreflight
  dsimp only
  split_ifs with hc
  · have hr : EncodeRuns (setCapOk (loadRequired s.session.el s.session.pl (loadCapacity s))) := { h with
      checked := fun _ => ⟨hh, hw, hv, toNat_capacity _ _, toNat_required _ _ _, by
        simpa only [setCapOk_req, setCapOk_cap, loadRequired_req, loadRequired_cap, loadCapacity_cap,
          loadCapacity_params, toNat_capacity, toNat_required, hasCapacity_iff] using hc⟩ }
    exact (hr.await _).trace ⟨hi, congrArg List.length ho, hs, hp, rfl⟩
  · exact encodeTrace_complete _ _

/-- R182, R183: a header byte. -/
theorem readHeader_encodeTrace {k : Fin 54} (h : EncodeTrace s) (hk : s.session.kind = .encode)
    (hc : s.session.cont = .header k) (r : ReadResult) : EncodeTrace (readHeader encodePreflight k r s) := by
  have hp := h.point hk
  simp only [EncodePoint, hc] at hp
  obtain ⟨hi, ho, hs, hh, hph, hco⟩ := hp
  have hb : ∀ b w v, EncodeRuns { storeHeader k b (cinReceived b s) with width := w, height := v } := fun b w v =>
    ((h.runs hk).cinReceived b).header hco _ w v
  have hl : ∀ b : Byte, (s.cin ++ [b]).length = k.val + 1 := fun b => by simp [hi]
  obtain ⟨e, he, -⟩ | ⟨b, -, ⟨-, -, he⟩ | ⟨h1, hn, he⟩ | ⟨hk53, he⟩⟩ :=
    readHeader_cases encodePreflight k r s <;> rw [he]
  · exact encodeTrace_complete _ _
  · exact encodeTrace_complete _ _
  · exact ((hb b s.width s.height).await _).trace ⟨hl b, ho, hs, hh.storeHeader b hi h1, hph, hco⟩
  · have hh' := hh.storeHeader b hi (by omega)
    have hl' := hl b
    rw [hk53] at hh' hl'
    exact encodePreflight_trace (hb b _ _) hh' rfl rfl hl' ho hs hph

/-- R185: a header byte copied. -/
theorem encodeHeaderOut_trace {k : Fin 54} (h : EncodeTrace s) (hk : s.session.kind = .encode)
    (hc : s.session.cont = .headerOut k) (w : WriteResult) : EncodeTrace (encodeHeaderOut k w s) := by
  cases w with
  | err => exact encodeTrace_complete _ _
  | ok =>
    have hp := h.point hk
    simp only [EncodePoint, hc] at hp
    obtain ⟨hi, ho, hs, hph, hco⟩ := hp
    have hr := h.runs hk
    have hd : EncodeRuns (coutDelivered (s.session.hdr.get k) s) := by
      refine hr.coutDelivered ?_
      rw [ho, (hr.checked hco).header.1 k.val k.isLt, Option.map_some,
        stegoByte_of_none _ (frameBit_header _ _ _ _ _ k.isLt), headerByte_eq_get]
    have hl : (s.cout ++ [s.session.hdr.get k]).length = k.val + 1 := by simp [ho]
    simp only [encodeHeaderOut]
    split_ifs with hlt
    · exact (hd.await _).trace ⟨hi, hl, hs, hph, hco⟩
    · have hat : EncodeAt (coutDelivered (s.session.hdr.get k) s) 54 0 :=
        ⟨hd, hi, hl.trans (by omega), congrArg List.length hs, hco⟩
      exact (hat.setPhase .headerDone).encodeMarker (Nat.zero_le _) rfl

/-- R191: a payload byte. -/
theorem encodeSin_trace {k : Nat} (h : EncodeTrace s) (hk : s.session.kind = .encode)
    (hc : s.session.cont = .payloadIn k) (r : ReadResult) : EncodeTrace (encodeSin k r s) := by
  cases r with
  | err | endOfStream => exact encodeTrace_complete _ _
  | byte b =>
    have hp := h.point hk
    simp only [EncodePoint, hc] at hp
    obtain ⟨hlt, hs, hi, ho, hph, hco⟩ := hp
    have hd : EncodeRuns (sinReceived b s) := (h.runs hk).sinReceived b (by rw [hs, ho, hi])
    have hat : EncodeAt
        { sinReceived b s with session := { (sinReceived b s).session with sinByte := b } }
        (fieldStart s.params s.session.el.toNat (.payload k)) (k + 1) :=
      ⟨hd.work _ _ b, hi, ho.trans hi, by simp [hs], hco⟩
    refine hat.startGroup hlt ?_ hph
    rintro j ⟨⟩
    simp [← hs]

/-- R186: a byte of a carrier group. -/
theorem readGroup_encodeTrace {f : Field} {k : Fin 32} (h : EncodeTrace s) (hk : s.session.kind = .encode)
    (hc : s.session.cont = .fill f k) (r : ReadResult) : EncodeTrace (readGroup encodeGroup f k r s) := by
  have hp := h.point hk
  simp only [EncodePoint, hc] at hp
  obtain ⟨hf, hkg, hs, hsb, hi, ho, hg, hph, hco⟩ := hp
  have hb : ∀ b g c, EncodeRuns { cinReceived b s with session := { s.session with cont := c, group := g } } :=
    fun b g c => ((h.runs hk).cinReceived b).work c g _
  have hl : ∀ b : Byte, (s.cin ++ [b]).length = fieldStart s.params s.session.el.toNat f + (k.val + 1) := fun b => by
    simp [hi, Nat.add_assoc]
  have hg' : ∀ (b : Byte) (j : Nat), j < k.val + 1 →
      (s.cin ++ [b])[fieldStart s.params s.session.el.toNat f + j]? =
        some (groupByte (s.session.group.set k.val b) j) := by
    intro b j hj
    rw [groupByte_set _ _ _ (by omega)]
    split_ifs with hjk
    · rw [hjk, ← hi]
      simp
    · exact getElem?_append_of_eq_some b (hg j (by omega))
  obtain ⟨he, -⟩ | ⟨b, -, ⟨hlt, _, he⟩ | ⟨hle, he⟩⟩ := readGroup_cases encodeGroup f k r s <;> rw [he]
  · exact encodeTrace_complete _ _
  · exact (hb b _ _).trace ⟨hf, hlt, hs, hsb, hl b, ho, hg' b, hph, hco⟩
  · have hsz : groupSize f = k.val + 1 := by omega
    refine (hb b _ (.emit f 0)).trace ⟨hf, groupSize_pos f, hs, ?_, ho, fun j hj => ?_, hph, hco⟩
    · rw [hsz]
      exact hl b
    · have hge := groupByte_encodedGroup (x := (storeGroup k b (cinReceived b s)).session) hf hsb hj
      exact (congrArg some hge).trans (congrArg (Option.map _) (hg' b j (hsz ▸ hj))).symm

/-- R186: a byte of an encoded group delivered. -/
theorem encodeEmit_trace {f : Field} {k : Fin 32} (h : EncodeTrace s) (hk : s.session.kind = .encode)
    (hc : s.session.cont = .emit f k) (w : WriteResult) : EncodeTrace (encodeEmit f k w s) := by
  cases w with
  | err => exact encodeTrace_complete _ _
  | ok =>
    have hp := h.point hk
    simp only [EncodePoint, hc] at hp
    obtain ⟨hf, hkg, hs, hi, ho, hg, hph, hco⟩ := hp
    have hd : EncodeRuns (coutDelivered (s.session.group.get k) s) := by
      refine (h.runs hk).coutDelivered ?_
      rw [ho, ← groupByte_eq_get]
      exact hg k.val hkg
    have hl : (s.cout ++ [s.session.group.get k]).length = fieldStart s.params s.session.el.toNat f + (k.val + 1) := by
      simp [ho, Nat.add_assoc]
    simp only [encodeEmit]
    split_ifs with hlt
    · exact (hd.await _).trace ⟨hf, hlt, hs, hi, hl, hg, hph, hco⟩
    · have hsz : groupSize f = k.val + 1 := by omega
      have hat : EncodeAt (coutDelivered (s.session.group.get k) s)
          (fieldStart s.params s.session.el.toNat f + groupSize f) (sinTaken f) :=
        ⟨hd, hi, hsz ▸ hl, hs, hco⟩
      exact hat.encodeAfter hf hph

/-- R192: a tail byte read, or the end of the carrier. -/
theorem encodeTail_trace (h : EncodeTrace s) (hk : s.session.kind = .encode) (hc : s.session.cont = .tail)
    (r : ReadResult) : EncodeTrace (encodeTail r s) := by
  cases r with
  | err | endOfStream => exact encodeTrace_complete _ _
  | byte b =>
    have hp := h.point hk
    simp only [EncodePoint, hc] at hp
    obtain ⟨hs, hend, ho, hph, hco⟩ := hp
    refine (((h.runs hk).cinReceived b).await _).trace ⟨hs, ho ▸ hend, ?_, ?_, hph, hco⟩
    · simp [ho]
    · simp [ho]

/-- R192: a tail byte delivered, past the frame. -/
theorem encodeTailOut_trace {b : Byte} (h : EncodeTrace s) (hk : s.session.kind = .encode)
    (hc : s.session.cont = .tailOut b) (w : WriteResult) : EncodeTrace (encodeTailOut b w s) := by
  cases w with
  | err => exact encodeTrace_complete _ _
  | ok =>
    have hp := h.point hk
    simp only [EncodePoint, hc] at hp
    obtain ⟨hs, hend, hi, hb, hph, hco⟩ := hp
    have hd : EncodeRuns (coutDelivered b s) := by
      refine (h.runs hk).coutDelivered ?_
      rw [hb, Option.map_some, stegoByte_of_none _ (frameBit_tail _ _ _ _ _ (by rw [hs]; exact hend))]
    refine (hd.await _).trace ⟨hs, ?_, ?_, hph, hco⟩
    · exact hi ▸ Nat.le_succ_of_le hend
    · simp [hi]

/-! ### Any step -/

/-- No operation of a session makes an ENCODE of another session. -/
theorem notEncode_sessionOps (k : Kind) : SessionOpsKeep k (fun s => s.session.kind ≠ .encode) where
  data h hc := by
    simp only [State.control, Prod.mk.injEq] at hc
    obtain ⟨-, hk, -⟩ := hc
    rwa [hk]
  await _ _ h _ := h
  complete _ _ _ := nofun
  setPhase _ _ h := h
  cinReceived _ h := h
  setCapOk _ h _ := h
  sinReceived _ _ h _ := h
  coutDelivered _ _ h _ := h
  setMmatch _ _ h _ := h
  poutDelivered _ _ h _ := h

variable {t : State}

theorem answerRead_encodeTrace {r : ReadResult} (h : EncodeTrace s) (ha : answerRead r s = .next t) :
    EncodeTrace t := by
  by_cases hk : s.session.kind = .encode
  · unfold answerRead at ha
    rw [hk] at ha
    dsimp only at ha
    split at ha <;> cases ha
    next hc => exact readHeader_encodeTrace h hk hc r
    next hc => exact readGroup_encodeTrace h hk hc r
    next hc => exact encodeSin_trace h hk hc r
    next hc => exact encodeTail_trace h hk hc r
  · exact encodeTrace_of_kind ((notEncode_sessionOps _).answerRead (notEncode_sessionOps _) hk ha)

theorem answerWrite_encodeTrace {w : WriteResult} (h : EncodeTrace s) (ha : answerWrite w s = .next t) :
    EncodeTrace t := by
  by_cases hk : s.session.kind = .encode
  · unfold answerWrite at ha
    rw [hk] at ha
    dsimp only at ha
    split at ha <;> cases ha
    next hc => exact encodeHeaderOut_trace h hk hc w
    next hc => exact encodeEmit_trace h hk hc w
    next hc => exact encodeTailOut_trace h hk hc w
  · exact encodeTrace_of_kind ((notEncode_sessionOps _).answerWrite (notEncode_sessionOps _) hk ha)

/-- R181: the acceptance of any command, that of ENCODE included, starts a trace or leaves none. -/
theorem exec_encodeTrace {i : Instr} (h : exec i s = .next t) : EncodeTrace t := by
  obtain ⟨e, ok, a, b, c, d, rfl⟩ | rfl | ⟨hel, hpl, rfl⟩ | rfl := exec_cases h
  · exact encodeTrace_complete _ _
  · exact encodeTrace_complete _ _
  · have hz : ∀ (q : Nat → Prop) (j : Nat), j < 0 → q j := fun _ j hj => absurd hj (Nat.not_lt_zero j)
    exact EncodeRuns.trace ⟨rfl, rfl, rfl, rfl, hel, hpl, rfl, nofun, Nat.le_refl 0, hz _⟩
      ⟨rfl, rfl, rfl, ⟨hz _, fun h2 => absurd h2 (by decide)⟩, rfl, rfl⟩
  · exact encodeTrace_of_kind nofun

theorem acceptCmd_encodeTrace {w : Word} (h : acceptCmd w s = .next t) : EncodeTrace t := by
  obtain ⟨-, rfl⟩ | ⟨i, -, hx⟩ := acceptCmd_cases h
  · exact encodeTrace_complete _ _
  · exact exec_encodeTrace hx

theorem encodeTrace_put (h : EncodeTrace s) (x : HostSide) : EncodeTrace (x.put s) :=
  { h with checked := fun hk hc => { h.checked hk hc with } }

/-- Settles O50: an answer leads from point to point, a command starts anew, and no other move touches the trace. -/
theorem encodeTraceKept : Obligations.EncodeTraceKept := by
  intro s t h hst
  obtain ⟨rest, ⟨r, -, ha⟩ | ⟨w, -, ha⟩⟩ | ⟨u, rfl⟩ | ⟨x, rfl⟩ | ⟨hb, off, v, x, rfl | ha⟩ := step_inversion hst
  · exact answerRead_encodeTrace (encodeTrace_put h { HostSide.of s with host := rest }) ha
  · exact answerWrite_encodeTrace (encodeTrace_put h { HostSide.of s with host := rest }) ha
  · exact encodeTrace_of_kind nofun
  · exact encodeTrace_put h x
  · refine encodeTrace_of_kind fun hk => ?_
    exact absurd (hb.symm.trans (h.busy hk)) Bool.false_ne_true
  · exact acceptCmd_encodeTrace ha

end Sys2Proof.Machine
end

section
/-! PROOF. The output laws of a successful ENCODE (43_frame_encode.md rule R194): only the end of the carrier ends the
session without an error (R192), and there COUT is the whole stego image of CIN. -/

namespace Sys2Proof.Machine

/-! ### How ENCODE ends without an error -/

/-- From `s` to `t` the session goes on, or has failed. -/
def GoesOnOrFails (s t : State) : Prop := t.status.busy = s.status.busy ∨ t.status.err ≠ .none

section

variable (s : State)

theorem encodePayload_busy (n : Nat) : (encodePayload n s).status.busy = s.status.busy := by
  unfold encodePayload
  split <;> rfl

theorem encodeExt_busy (n : Nat) : (encodeExt n s).status.busy = s.status.busy := by
  unfold encodeExt
  split <;> rfl

theorem encodeMarker_busy (n : Nat) : (encodeMarker n s).status.busy = s.status.busy := by
  unfold encodeMarker
  split <;> rfl

theorem encodeAfter_busy (f : Field) : (encodeAfter f s).status.busy = s.status.busy := by
  cases f with
  | marker n => exact encodeMarker_busy s (n + 1)
  | extLen => exact encodeExt_busy _ 0
  | ext n => exact encodeExt_busy s (n + 1)
  | payloadLen => exact encodePayload_busy _ 0
  | payload n => exact encodePayload_busy s (n + 1)

theorem encodePreflight_goesOn : GoesOnOrFails s (encodePreflight s) := by
  unfold encodePreflight
  dsimp only
  split
  · exact .inl rfl
  · exact .inr nofun

theorem readHeader_encode_goesOn (k : Fin 54) (r : ReadResult) :
    GoesOnOrFails s (readHeader encodePreflight k r s) := by
  obtain ⟨e, he, hne, -⟩ | ⟨b, -, ⟨-, -, he⟩ | ⟨-, _, he⟩ | ⟨-, he⟩⟩ :=
    readHeader_cases encodePreflight k r s <;> rw [he]
  · exact .inr hne
  · exact .inr nofun
  · exact .inl rfl
  · exact encodePreflight_goesOn _

theorem readGroup_encode_goesOn (f : Field) (k : Fin 32) (r : ReadResult) :
    GoesOnOrFails s (readGroup encodeGroup f k r s) := by
  obtain ⟨he, -⟩ | ⟨b, -, ⟨-, _, he⟩ | ⟨-, he⟩⟩ := readGroup_cases encodeGroup f k r s <;> rw [he]
  · exact .inr nofun
  · exact .inl rfl
  · exact .inl rfl

theorem encodeSin_goesOn (k : Nat) (r : ReadResult) : GoesOnOrFails s (encodeSin k r s) := by
  cases r with
  | byte b => exact .inl rfl
  | endOfStream | err => exact .inr nofun

theorem encodeHeaderOut_goesOn (k : Fin 54) (w : WriteResult) : GoesOnOrFails s (encodeHeaderOut k w s) := by
  cases w with
  | err => exact .inr nofun
  | ok =>
    simp only [encodeHeaderOut]
    split
    · exact .inl rfl
    · exact .inl (encodeMarker_busy _ 0)

theorem encodeEmit_goesOn (f : Field) (k : Fin 32) (w : WriteResult) : GoesOnOrFails s (encodeEmit f k w s) := by
  cases w with
  | err => exact .inr nofun
  | ok =>
    simp only [encodeEmit]
    split
    · exact .inl rfl
    · exact .inl (encodeAfter_busy _ f)

theorem encodeTailOut_goesOn (b : Byte) (w : WriteResult) : GoesOnOrFails s (encodeTailOut b w s) := by
  cases w with
  | ok => exact .inl rfl
  | err => exact .inr nofun

end

variable {s t : State}

/-- R192: of the read answers only `End` in the tail ends ENCODE without an error. -/
theorem answerRead_encode_ends {r : ReadResult} (hk : s.session.kind = .encode) (h : answerRead r s = .next t) :
    GoesOnOrFails s t ∨ (s.session.cont = .tail ∧ t = encodeFinish s) := by
  unfold answerRead at h
  rw [hk] at h
  dsimp only at h
  split at h <;> cases h
  next => exact .inl (readHeader_encode_goesOn s _ r)
  next => exact .inl (readGroup_encode_goesOn s _ _ r)
  next => exact .inl (encodeSin_goesOn s _ r)
  next hc =>
    cases r with
    | byte b => exact .inl (.inl rfl)
    | endOfStream => exact .inr ⟨hc, rfl⟩
    | err => exact .inl (.inr nofun)

/-- No write answer ends ENCODE without an error. -/
theorem answerWrite_encode_goesOn {w : WriteResult} (hk : s.session.kind = .encode) (h : answerWrite w s = .next t) :
    GoesOnOrFails s t := by
  unfold answerWrite at h
  rw [hk] at h
  dsimp only at h
  split at h <;> cases h
  next => exact encodeHeaderOut_goesOn s _ w
  next => exact encodeEmit_goesOn s _ _ w
  next => exact encodeTailOut_goesOn s _ w

/-- R192: the step that completes ENCODE without an error is the one that meets the end of the carrier. -/
theorem encode_completes_in_tail (hk : s.session.kind = .encode) (hb : s.status.busy = true) (h : step s = .next t)
    (htb : t.status.busy = false) (htd : t.status.done = true) (hte : t.status.err = .none) :
    s.session.cont = .tail ∧ ∃ rest, t = encodeFinish { s with host := rest } := by
  have hn : ¬ GoesOnOrFails s t := by
    rintro (he | he)
    · exact Bool.false_ne_true ((htb.symm.trans he).trans hb)
    · exact he hte
  obtain ⟨rest, ⟨r, -, ha⟩ | ⟨w, -, ha⟩⟩ | ⟨u, rfl⟩ | ⟨x, rfl⟩ | ⟨hi, -⟩ := step_inversion h
  · obtain hg | ⟨hc, he⟩ := answerRead_encode_ends (s := { s with host := rest }) hk ha
    · exact absurd hg hn
    · exact ⟨hc, rest, he⟩
  · exact absurd (answerWrite_encode_goesOn (s := { s with host := rest }) hk ha) hn
  · exact absurd htd Bool.false_ne_true
  · exact absurd (.inl rfl) hn
  · exact absurd (hi.symm.trans hb) Bool.false_ne_true

/-! ### What it leaves -/

/-- Settles O42: the completing step leaves the ports of the tail, where COUT is the whole stego image of CIN. -/
theorem encodeOutputLaws : Obligations.EncodeOutputLaws := by
  intro s t htr hci hk hst htb htd hte
  have hr : EncodeRuns s := htr.runs hk
  obtain ⟨hc, rest, rfl⟩ := encode_completes_in_tail hk hr.busy hst htb htd hte
  have hp : EncodePoint s := htr.point hk
  simp only [EncodePoint, hc] at hp
  obtain ⟨hsin, hend, hlen, -, -⟩ := hp
  have hg : IsStego s.params s.extLen s.ext s.payloadLen s.sin s.cin s.cout := by
    rw [← hr.el_eq, ← hr.ext_eq, ← hr.pl_eq]
    exact hr.stego
  rw [hr.pl_eq] at hsin
  rw [hr.el_eq, hr.pl_eq] at hend
  have htail : frameEnd s.params s.extLen.toNat s.payloadLen.toNat =
      fieldStart s.params s.extLen.toNat (.payload s.sin.length) := by
    rw [hsin, fieldStart_payload_frameEnd]
  have hout : s.outPos = BitVec.ofNat 64 s.cin.length := by
    rw [hci.out_eq, hci.encode_ports hk, hlen, List.length_nil, Nat.add_zero]
  have hsp : s.sinPos = s.payloadLen := by
    rw [hci.sin_eq, hsin, BitVec.ofNat_toNat, BitVec.setWidth_eq]
  refine ⟨hlen, hci.cin_eq, hout, hg.take_header hlen, fun k a b ha hb => hg.high_eq ha hb, fun k hke => ?_,
    fun k h54 hkf => ?_, hsp, hsin⟩
  · exact hg.eq_of_none hlen (frameBit_tail _ _ _ _ _ (htail ▸ hke))
  · have hkf' : k < frameEnd s.params s.extLen.toNat s.payloadLen.toNat := hkf
    obtain ⟨v, hv⟩ := frameBit_of_frame (ext := s.ext) (pl := s.payloadLen) h54 (hsin ▸ hkf')
    obtain ⟨b, hb, hvb⟩ := hg.lsb_eq (by omega) hv
    exact ⟨v, b, hv, hb, hvb⟩

end Sys2Proof.Machine
end

section
/-! PROOF. The command encoding (30_encoding.md rules R100, R103, R104): a command word is its `RSV` field above its `OP`
field, and decoding looks at the two fields one by one. -/

namespace Sys2Proof

/-! ### The opcode map -/

/-- The `OP` values of R103 name the commands one to one. -/
theorem decodeOp_eq_command_iff (op : BitVec 8) (i : Instr) : decodeOp op = .command i ↔ op = opcode i := by
  constructor
  · unfold decodeOp
    intro h
    split_ifs at h with h0 h1 h2 h3 h4 h5 h6 h7 <;> cases h <;> assumption
  · rintro rfl
    cases i <;> rfl

/-- The list of R103 is the list of the commands' `OP` values. -/
theorem mem_definedOps_iff (op : BitVec 8) : op ∈ definedOps ↔ ∃ i, op = opcode i := by
  constructor
  · simp only [definedOps, List.mem_cons, List.not_mem_nil, or_false]
    rintro (h | h | h | h | h | h | h | h)
    exacts [⟨.nop, h⟩, ⟨.encb, h⟩, ⟨.decb, h⟩, ⟨.encw, h⟩, ⟨.decw, h⟩, ⟨.capchk, h⟩, ⟨.encode, h⟩, ⟨.decode, h⟩]
  · rintro ⟨i, rfl⟩
    cases i <;> decide

/-! ### The fields of a word -/

/-- R100: a word is its two fields. -/
theorem eq_append_iff_cmdFields (w : Word) (rsv : BitVec 24) (op : BitVec 8) :
    w = rsv ++ op ↔ (cmdFields w).rsv = rsv ∧ (cmdFields w).op = op := by
  constructor
  · rintro rfl
    exact ⟨BitVec.extractLsb'_append_eq_left, BitVec.extractLsb'_append_eq_right⟩
  · rintro ⟨rfl, rfl⟩
    calc w = w.extractLsb' 0 32 := BitVec.extractLsb'_eq_self.symm
      _ = _ := (BitVec.extractLsb'_append_extractLsb'_eq_extractLsb' (start₁ := 0) (len₁ := 8) rfl).symm

theorem eq_encode_iff (w : Word) (i : Instr) :
    w = encode i ↔ (cmdFields w).rsv = 0 ∧ (cmdFields w).op = opcode i :=
  eq_append_iff_cmdFields w 0 (opcode i)

/-! ### Decoding -/

theorem decodeCmd_of_rsv_ne_zero {w : Word} (h : (cmdFields w).rsv ≠ 0) : decodeCmd w = .illegal .reservedBits :=
  if_pos h

theorem decodeCmd_of_rsv_eq_zero {w : Word} (h : (cmdFields w).rsv = 0) : decodeCmd w = decodeOp (cmdFields w).op :=
  if_neg (not_not_intro h)

theorem decodeCmd_eq_command_iff_fields (w : Word) (i : Instr) :
    decodeCmd w = .command i ↔ (cmdFields w).rsv = 0 ∧ (cmdFields w).op = opcode i := by
  by_cases h : (cmdFields w).rsv = 0
  · rw [decodeCmd_of_rsv_eq_zero h, decodeOp_eq_command_iff, and_iff_right h]
  · rw [decodeCmd_of_rsv_ne_zero h]
    exact iff_of_false nofun fun hf => h hf.1

/-- Settles O2: both sides say that `RSV` is 0 and `OP` is the command's. -/
theorem decodeEncodeAgree : Obligations.DecodeEncodeAgree := fun i w =>
  (decodeCmd_eq_command_iff_fields w i).trans (eq_encode_iff w i).symm

theorem Decoded.illegal_iff_no_command (d : Decoded) : (∃ why, d = .illegal why) ↔ ¬ ∃ i, d = .command i := by
  cases d with
  | command i => exact iff_of_false nofun (not_not_intro ⟨i, rfl⟩)
  | illegal why => exact iff_of_true ⟨why, rfl⟩ nofun

/-- R105: the words that R104 calls `Illegal`. -/
theorem decodeCmd_illegal_iff (w : Word) :
    (∃ why, decodeCmd w = .illegal why) ↔ (cmdFields w).rsv ≠ 0 ∨ (cmdFields w).op ∉ definedOps := by
  simp only [Decoded.illegal_iff_no_command, decodeCmd_eq_command_iff_fields, exists_and_left, ← mem_definedOps_iff,
    not_and_or, ne_eq]

/-- Settles O1: the word of each command by its encoding, and the illegal words by their fields. -/
theorem decodingIsTotal : Obligations.DecodingIsTotal := fun w =>
  have agree (i : Instr) : decodeCmd w = .command i ↔ w = encode i := decodeEncodeAgree i w
  ⟨agree .nop, agree .encb, agree .decb, agree .encw, agree .decw, agree .capchk, agree .encode, agree .decode,
    decodeCmd_illegal_iff w⟩

theorem decodeCmd_encode (i : Instr) : decodeCmd (encode i) = .command i := (decodeEncodeAgree i _).2 rfl

/-- Settles O3: five words are the encodings of their commands; in the other three `OP` is undefined or `RSV` is not 0. -/
theorem fewWordsDecode : Obligations.FewWordsDecode :=
  ⟨decodeCmd_encode .nop, decodeCmd_encode .encb, decodeCmd_encode .capchk, decodeCmd_encode .encode,
    decodeCmd_encode .decode, decodeCmd_of_rsv_eq_zero (by decide), decodeCmd_of_rsv_ne_zero (by decide),
    decodeCmd_of_rsv_ne_zero (by decide)⟩

end Sys2Proof
end

section
/-! PROOF. The command frame (40_command.md): how a word written to `CMD` comes to run (rules R120, R121), the commands that
end with no other effect (R123, R124), the write to `CTRL` (R125), and what ends a running session (R126). -/

namespace Sys2Proof.Machine

/-! ### A write to `CMD` of an idle block -/

theorem acceptCmd_of_command {w : Word} {i : Instr} (s : State) (h : decodeCmd w = .command i) :
    acceptCmd w s = exec i s := by
  rw [acceptCmd, h]

theorem acceptCmd_of_illegal {w : Word} (s : State) (h : ∃ why, decodeCmd w = .illegal why) :
    acceptCmd w s = .next (illegalCommand s) := by
  obtain ⟨why, h⟩ := h
  rw [acceptCmd, h]

/-- R120: the word is stored and accepted in the step that takes the write. -/
theorem step_writeCmd_of_idle {s : State} {rest : List HostEvent} {w : Word} (hr : s.rst = false)
    (hb : s.status.busy = false) (hh : s.host = .regWrite 0x08 0xF w :: rest) :
    step s = acceptCmd w { s with host := rest, bus := some .ok, cmd := w } := by
  have hb' : (answerBus .ok { s with host := rest }).status.busy = false := hb
  rw [step_running hr hh, moveRunning, regWrite_cmd, writeCmd_of_idle hb']
  rfl

/-- Settles O4: the write is an acceptance, and the acceptance of a command is its `exec`. -/
theorem stepRunsDecodedCommand : Obligations.StepRunsDecodedCommand := fun _ _ _ _ hr hb hh hd =>
  (step_writeCmd_of_idle hr hb hh).trans (acceptCmd_of_command _ hd)

/-- A placed word is the word that was given: none of its bits is cut off. -/
theorem withFetchWord_toNat (w : Word) (s : State) : s.withFetchWord 32 w.toNat = placeCommand w s := by
  rw [State.withFetchWord, Nat.mod_eq_of_lt w.isLt, BitVec.ofNat_toNat, BitVec.setWidth_eq]

/-- Settles O5: the placed state is idle and out of reset, and its next move writes a word that decodes to the command. -/
theorem placedCommandRuns : Obligations.PlacedCommandRuns := by
  intro i s
  rw [withFetchWord_toNat]
  exact stepRunsDecodedCommand (placeCommand (encode i) s) s.host (encode i) i rfl rfl rfl (decodeCmd_encode i)

/-! ### Completion at acceptance with no other effect -/

/-- R121, R122: an acceptance followed at once by completion changes `STATUS` and discards the session, nothing else. -/
theorem completes_complete_accept (e : ErrKind) (s : State) :
    Completes { s with status := PrimitiveStatus e false } (.next (complete e (accept false s))) :=
  ⟨Session.idle, rfl, rfl, rfl⟩

/-- Settles O6: the word decodes to no command, so its acceptance is `illegalCommand`. -/
theorem illegalWordIsCommandError : Obligations.IllegalWordIsCommandError := by
  intro s rest w hr hb hh hw
  rw [step_writeCmd_of_idle hr hb hh, acceptCmd_of_illegal _ ((decodeCmd_illegal_iff w).mpr hw)]
  exact completes_complete_accept .commandError _

/-- Settles O7: the word is the encoding of NOP, and NOP is an acceptance and a completion. -/
theorem nopCompletes : Obligations.NopCompletes :=
  ⟨decodeCmd_encode .nop, completes_complete_accept .none⟩

/-! ### A write to `CTRL` -/

/-- R25: what a write to `CTRL` stores, `DONE_CLR` as a mask of `DONE`. -/
theorem writeCtrl_eq (v : Word) (s : State) :
    writeCtrl v s = { s with
      ie := v.getLsbD 0, mchk := v.getLsbD 2,
      status := { s.status with done := s.status.done && !v.getLsbD 1 } } := by
  have hd : (if v.getLsbD 1 then false else s.status.done) = (s.status.done && !v.getLsbD 1) := by
    cases v.getLsbD 1 <;> simp
  rw [writeCtrl, hd]

/-- Settles O17: the write of `CTRL`, and `DONE` of a running session by the status invariant. -/
theorem ctrlWrite : Obligations.CtrlWrite := by
  intro s rest v hr hh
  refine ⟨?_, StatusInv.done_of_busy⟩
  rw [step_running hr hh, moveRunning, regWrite_ctrl, writeCtrl_eq]
  rfl

/-! ### The end of a session -/

/-- A step of a busy block is a change of the host's side only, a stream answer, or the assertion of `rst`. -/
theorem step_of_busy {s t : State} (h : step s = .next t) (hb : s.status.busy = true) :
    (∃ x : HostSide, t = x.put s) ∨
    (∃ e rest, s.host = e :: rest ∧ isAnswer e = true ∧ AnswerKeeps { s with host := rest } t) ∨
    ∃ rest, s.host = .rstAssert :: rest := by
  obtain ⟨-, rfl⟩ | ⟨e, rest, hh, ⟨-, rfl⟩ | ⟨-, hm⟩⟩ := step_moves h
  · exact .inl ⟨HostSide.of t, rfl⟩
  · obtain he | he := moveInReset_cases e { s with host := rest } <;> rw [he]
    · exact .inl ⟨{ HostSide.of s with host := rest }, rfl⟩
    · exact .inl ⟨{ HostSide.of s with rst := false, host := rest }, rfl⟩
  · obtain ⟨off, lanes, -, rfl⟩ | ⟨off, lanes, v, -, hw⟩ | ⟨r, rfl, ha⟩ | ⟨w, rfl, ha⟩ | ⟨rfl, -⟩ | ⟨-, rfl⟩ :=
      moveRunning_cases hm
    · obtain ⟨a, he⟩ := regRead_eq off lanes { s with host := rest }
      exact .inl ⟨{ HostSide.of s with bus := some a, host := rest }, he⟩
    · obtain ⟨x, hx⟩ | ⟨hi, -⟩ := regWrite_inversion hw
      · exact .inl ⟨x, hx⟩
      · cases hb.symm.trans hi
    · exact .inr (.inl ⟨_, rest, hh, rfl, answerRead_keeps ha⟩)
    · exact .inr (.inl ⟨_, rest, hh, rfl, answerWrite_keeps ha⟩)
    · exact .inr (.inr ⟨rest, hh⟩)
    · exact .inl ⟨{ HostSide.of s with host := rest }, rfl⟩

/-- Settles O56: a change of the host's side keeps the session, and an answer that ends it sets `DONE`. -/
theorem sessionEndsOnlyByItself : Obligations.SessionEndsOnlyByItself := by
  constructor
  · intro s t h hb ht
    obtain ⟨x, rfl⟩ | ⟨e, rest, hh, he, hk⟩ | ⟨rest, hh⟩ := step_of_busy h hb
    · cases hb.symm.trans ht
    · obtain ⟨hs, -, -⟩ | ⟨-, hd⟩ := hk.ends
      · cases hb.symm.trans (hs.symm.trans ht)
      · exact ⟨e, rest, hh, .inr ⟨he, hd⟩⟩
    · exact ⟨_, rest, hh, .inl rfl⟩
  · intro s t e rest h hb hh he hne
    obtain ⟨x, rfl⟩ | ⟨e', rest', hh', he', -⟩ | ⟨rest', hh'⟩ := step_of_busy h hb
    · exact ⟨rfl, hb, ⟨rfl, rfl, rfl, rfl⟩, rfl, rfl, rfl⟩
    · cases hh.symm.trans hh'
      cases he.symm.trans he'
    · cases hh.symm.trans hh'
      exact absurd rfl hne

end Sys2Proof.Machine
end

section
/-! PROOF. The bit packer (41_bitpacker.md). The two widths are one packing of `n` bits (R144): its laws are proved once
for every width, and the commands on the window are read off them. -/

namespace Sys2Proof.Machine

/-! ### One packing of any width -/

section

variable {n : Nat} (v : BitVec n) (c : Vector Byte n)

theorem setLsb_getLsbD_zero (b : Byte) (x : Bool) : (setLsb b x).getLsbD 0 = x := lsb_setLsb b x

theorem setLsb_getLsbD_high (b : Byte) (x : Bool) {i : Nat} (h0 : 0 < i) (h8 : i < 8) :
    (setLsb b x).getLsbD i = b.getLsbD i := by
  have h := congrArg (fun y : BitVec 7 => y.getLsbD (i - 1)) (setLsb_high b x)
  simpa only [BitVec.getLsbD_extractLsb', show i - 1 < 7 by omega, show 1 + (i - 1) = i by omega, decide_true,
    Bool.true_and] using h

/-- Bit `k` counted from the top is bit `n-1-k`. -/
theorem getMsbD_fin (k : Fin n) : v.getMsbD k.val = v.getLsbD (n - 1 - k.val) := by
  rw [BitVec.getMsbD_eq_getLsbD, decide_eq_true k.isLt, Bool.true_and]

/-- R144: bit `i` of an unpacked group is the hidden bit of byte `n-1-i`. -/
theorem decodeBits_getLsbD {i : Nat} (hi : i < n) : (decodeBits c).getLsbD i = lsb (c.get ⟨n - 1 - i, by omega⟩) := by
  rw [← decodeBits_getMsbD, getMsbD_fin]
  congr 1
  dsimp only
  omega

/-- R140 to R143 for any width: what each carrier byte holds, and what is read from it. -/
theorem encodeBits_placement (k : Fin n) :
    ((encodeBits v c).get k).getLsbD 0 = v.getLsbD (n - 1 - k.val) ∧
    (decodeBits c).getLsbD (n - 1 - k.val) = (c.get k).getLsbD 0 ∧
    ∀ i, 0 < i → i < 8 → ((encodeBits v c).get k).getLsbD i = (c.get k).getLsbD i := by
  rw [encodeBits_get, ← getMsbD_fin, ← getMsbD_fin]
  exact ⟨setLsb_getLsbD_zero _ _, decodeBits_getMsbD c k, fun i h0 h8 => setLsb_getLsbD_high _ _ h0 h8⟩

/-- R145 for any width. -/
@[simp] theorem decodeBits_encodeBits : decodeBits (encodeBits v c) = v :=
  (decodeBits_eq_iff _ v).mpr fun k => by rw [encodeBits_get, lsb_setLsb]

/-- R146 for any width: bits 7:1 of every carrier byte are kept. -/
theorem encodeBits_high (k : Fin n) : ((encodeBits v c).get k).extractLsb' 1 7 = (c.get k).extractLsb' 1 7 := by
  rw [encodeBits_get, setLsb_high]

/-- R146 for any width: packing what a group carries gives the group. -/
@[simp] theorem encodeBits_decodeBits : encodeBits (decodeBits c) c = c :=
  vector_ext_get fun k => by rw [encodeBits_get, decodeBits_getMsbD, setLsb_self]

variable {m : Nat} (u : BitVec m) (d : Vector Byte m)

/-- R144: the high bits of a value go into the first bytes of its group. -/
theorem encodeBits_append : encodeBits (v ++ u) (c ++ d) = encodeBits v c ++ encodeBits u d := by
  apply Vector.ext
  intro i hi
  simp only [encodeBits, Vector.getElem_ofFn, Vector.get_eq_getElem, Vector.getElem_append, BitVec.getMsbD_append]
  split_ifs with h1 h2
  · omega
  · rfl
  · rfl
  · omega

theorem decodeBits_append : decodeBits (c ++ d) = decodeBits c ++ decodeBits d := by
  have h := encodeBits_append (decodeBits c) c (decodeBits d) d
  rw [encodeBits_decodeBits, encodeBits_decodeBits] at h
  rw [← h, decodeBits_encodeBits]

end

/-- Settles O19: the placement of bits for the widths 8 and 32. -/
theorem bitPlacement : Obligations.BitPlacement := ⟨encodeBits_placement, encodeBits_placement⟩

/-- Settles O20: the round trip for the widths 8 and 32. -/
theorem bitPackerRoundTrip : Obligations.BitPackerRoundTrip := ⟨decodeBits_encodeBits, decodeBits_encodeBits⟩

/-- Settles O21: the preservation laws for the widths 8 and 32. -/
theorem bitPackerPreservation : Obligations.BitPackerPreservation :=
  ⟨encodeBits_high, encodeBits_high, encodeBits_decodeBits, encodeBits_decodeBits⟩

/-! ### A word as four bytes -/

/-- R151 for packing: the most significant byte goes into the first group. -/
theorem encodeInt32_ofBytes (b0 b1 b2 b3 : Byte) (c0 c1 c2 c3 : Vector Byte 8) :
    encodeInt32 (ofBytes b0 b1 b2 b3) (c0 ++ c1 ++ c2 ++ c3) =
      encodeByte b3 c0 ++ encodeByte b2 c1 ++ encodeByte b1 c2 ++ encodeByte b0 c3 := by
  unfold encodeInt32 ofBytes encodeByte
  rw [← encodeBits_append, ← encodeBits_append, ← encodeBits_append]

/-- R151 for unpacking. -/
theorem decodeInt32_append (c0 c1 c2 c3 : Vector Byte 8) :
    decodeInt32 (c0 ++ c1 ++ c2 ++ c3) = ofBytes (decodeByte c3) (decodeByte c2) (decodeByte c1) (decodeByte c0) := by
  unfold decodeInt32 ofBytes decodeByte
  rw [← decodeBits_append, ← decodeBits_append, ← decodeBits_append]

/-- Settles O22: a word is the four bytes put together, and so is its group. -/
theorem wordIsFourBytes : Obligations.WordIsFourBytes := by
  intro w c0 c1 c2 c3 c hc
  have hv : c = c0 ++ c1 ++ c2 ++ c3 := Vector.toList_inj.mp (by simpa only [Vector.toList_append] using hc)
  rw [hv]
  constructor
  · have he := encodeInt32_ofBytes (byteOf w 0) (byteOf w 1) (byteOf w 2) (byteOf w 3) c0 c1 c2 c3
    rw [ofBytes_byteOf] at he
    rw [he]
    simp only [Vector.toList_append]
  · exact decodeInt32_append c0 c1 c2 c3

/-- The bits of a byte lane, the most significant first. -/
theorem getMsbD_byteOf (w : Word) (j : Nat) {k : Nat} (hk : k < 8) :
    (byteOf w j).getMsbD k = w.getLsbD (8 * j + (7 - k)) := by
  have h7 : 7 - k < 8 := by omega
  rw [getMsbD_fin _ ⟨k, hk⟩, byteOf, BitVec.getLsbD_extractLsb', decide_eq_true h7, Bool.true_and]

/-- R151: the first group of a packed word carries its most significant byte. -/
theorem decodeByte_first8_encodeInt32 (w : Word) (c : Vector Byte 32) :
    decodeByte (first8 (encodeInt32 w c)) = byteOf w 3 := by
  refine (decodeBits_eq_iff _ _).mpr fun k => ?_
  rw [first8_get, encodeInt32, encodeBits_get, lsb_setLsb, getMsbD_fin, getMsbD_byteOf w 3 k.isLt]
  congr 1
  rw [Fin.val_castLE]
  omega

/-! ### The commands on the window -/

/-- Settles O23: the word is the encoding of ENCB, and the bytes of its group are those of the packed low byte. -/
theorem encbResult : Obligations.EncbResult := by
  refine ⟨decodeCmd_encode .encb, fun s => ⟨putFirst8 s.cw (encodeByte (byteOf s.value 0) (first8 s.cw)), fun k => ?_,
    Session.idle, rfl, rfl, rfl⟩⟩
  rw [putFirst8_get]
  split_ifs with hk
  · rw [encodeByte, encodeBits_get, getMsbD_byteOf _ 0 hk, Nat.mul_zero, Nat.zero_add, first8_get]
    rfl
  · rfl

/-- Settles O24: the word is the encoding of DECB, and `VALUE` is the unpacked byte, zero-extended. -/
theorem decbResult : Obligations.DecbResult := by
  refine ⟨decodeCmd_encode .decb, fun s => ⟨(decodeByte (first8 s.cw)).setWidth 32, fun i => ?_,
    Session.idle, rfl, rfl, rfl⟩⟩
  rw [BitVec.getLsbD_setWidth, decide_eq_true i.isLt, Bool.true_and]
  split_ifs with hi
  · rw [decodeByte, decodeBits_getLsbD _ hi, first8_get]
    rfl
  · exact BitVec.getLsbD_of_ge _ _ (Nat.le_of_not_lt hi)

/-- Settles O25: the word is the encoding of ENCW, and the window is the packed word. -/
theorem encwResult : Obligations.EncwResult := by
  refine ⟨decodeCmd_encode .encw, fun s => ⟨encodeInt32 s.value s.cw, fun k => ?_, Session.idle, rfl, rfl, rfl⟩⟩
  rw [encodeInt32, encodeBits_get, getMsbD_fin]
  rfl

/-- Settles O26: the word is the encoding of DECW, and `VALUE` is the unpacked word. -/
theorem decwResult : Obligations.DecwResult :=
  ⟨decodeCmd_encode .decw, fun s => ⟨decodeInt32 s.cw, fun i => decodeBits_getLsbD s.cw i.isLt,
    Session.idle, rfl, rfl, rfl⟩⟩

theorem setWidth_byteOf_zero (w : Word) : (byteOf w 0).setWidth 32 = w &&& 0x000000FF := by
  apply BitVec.eq_of_toNat_eq
  simp only [byteOf, BitVec.toNat_setWidth, BitVec.extractLsb'_toNat, BitVec.toNat_and, Nat.mul_zero,
    Nat.shiftRight_zero]
  rw [show (0x000000FF : Word).toNat = 2 ^ 8 - 1 from rfl, Nat.and_two_pow_sub_one_eq_mod]
  omega

theorem setWidth_byteOf_three (w : Word) : (byteOf w 3).setWidth 32 = w >>> 24 := by
  apply BitVec.eq_of_toNat_eq
  simp only [byteOf, BitVec.toNat_setWidth, BitVec.extractLsb'_toNat, BitVec.toNat_ushiftRight,
    Nat.shiftRight_eq_div_pow]
  omega

/-- Settles O27: each unpacking reads what the packing before it left in the window. -/
theorem packThenUnpack : Obligations.PackThenUnpack := by
  intro s t u
  refine ⟨?_, ?_, ?_⟩ <;> rintro ⟨⟩ ⟨⟩
  · refine ⟨?_, rfl⟩
    calc (decodeByte (first8 (putFirst8 s.cw (encodeByte (byteOf s.value 0) (first8 s.cw))))).setWidth 32
      _ = (byteOf s.value 0).setWidth 32 := by rw [first8_putFirst8, bitPackerRoundTrip.1]
      _ = s.value &&& 0x000000FF := setWidth_byteOf_zero s.value
  · exact ⟨bitPackerRoundTrip.2 s.value s.cw, rfl⟩
  · refine ⟨?_, rfl⟩
    calc (decodeByte (first8 (encodeInt32 s.value s.cw))).setWidth 32
      _ = (byteOf s.value 3).setWidth 32 := by rw [decodeByte_first8_encodeInt32]
      _ = s.value >>> 24 := setWidth_byteOf_three s.value

end Sys2Proof.Machine
end

section
/-! PROOF. A DECODE served from a carrier that holds a frame runs to its end without error and gives the frame back
(44_frame_decode.md rules R210 to R222). The output of ENCODE is such a carrier, which is the round-trip law (R224). -/

namespace Sys2Proof.Machine

/-! ### A carrier with its frame -/

/-- A carrier and the frame that is to be read off it. -/
structure FramedCarrier where
  params : Params
  el : Word
  ext : Word
  pl : Word
  payload : List Byte
  carrier : List Byte

namespace FramedCarrier

variable (F : FramedCarrier)

/-- The first carrier offset of a field's group (20_memory.md rule R82). -/
abbrev start (f : Field) : Nat := fieldStart F.params F.el.toNat f

/-- The transactions of a whole DECODE: a `CinRead` per carrier byte up to `F_END`, a `PoutWrite` per payload byte. -/
def transactions : Nat := frameEnd F.params F.el.toNat F.pl.toNat + F.pl.toNat

/-- The frame has such a field (20_memory.md rule R82). -/
abbrev HasField (f : Field) : Prop := fieldInFrame F.params F.el.toNat F.pl.toNat f

/-- The capacity the header declares (42_capacity.md rule R160). -/
abbrev capacity : Nat := imageCapacityBytes (headerWidth (headerOf F.carrier)) (headerHeight (headerOf F.carrier))

/-- The carrier passes the checks of DECODE and its fields decode to the frame's values. -/
structure Holds : Prop where
  el_le : F.el.toNat ≤ F.params.extMax.val
  pl_le : F.pl.toNat ≤ F.params.payloadMax.toNat
  payload_length : F.payload.length = F.pl.toNat
  signature : signatureOk (headerOf F.carrier) = true
  required_le : requiredBits F.params.markerLen.val F.el.toNat F.pl.toNat ≤ F.capacity
  frameEnd_le : frameEnd F.params F.el.toNat F.pl.toNat ≤ F.carrier.length
  marker : ∀ k, k < F.params.markerLen.val → byteAt F.carrier (F.start (.marker k)) = byteOf F.params.marker k
  extLen : wordAt F.carrier (F.start .extLen) = F.el
  ext : ∀ k, k < F.el.toNat → byteAt F.carrier (F.start (.ext k)) = byteOf F.ext k
  payloadLen : wordAt F.carrier (F.start .payloadLen) = F.pl
  payload : ∀ k, k < F.pl.toNat → F.payload[k]? = some (byteAt F.carrier (F.start (.payload k)))

end FramedCarrier

/-- The field whose group follows that of a field (20_memory.md rule R82), for an extension and a payload without
end. -/
def nextField : Field → Field
  | .marker k => .marker (k + 1)
  | .extLen => .ext 0
  | .ext k => .ext (k + 1)
  | .payloadLen => .payload 0
  | .payload k => .payload (k + 1)

theorem fieldStart_nextField (p : Params) (el : Nat) (f : Field) :
    fieldStart p el f + groupSize f = fieldStart p el (nextField f) := by
  cases f <;> simp only [nextField, groupSize, fieldStart_marker, fieldStart_extLen, fieldStart_ext,
    fieldStart_payloadLen, fieldStart_payload] <;> omega

/-- The group of a field of the frame ends within the frame. -/
theorem fieldStart_add_groupSize_le {p : Params} {el pl : Nat} {f : Field} (hf : fieldInFrame p el pl f) :
    fieldStart p el f + groupSize f ≤ frameEnd p el pl := by
  unfold frameEnd
  cases f with
  | marker k | ext k | payload k =>
    have hk : k < _ := hf
    simp only [groupSize, fieldStart_marker, fieldStart_ext, fieldStart_payload]
    omega
  | extLen | payloadLen =>
    simp only [groupSize, fieldStart_extLen, fieldStart_payloadLen]
    omega

/-! ### The part of the carrier that has been read -/

section

variable {l m : List Byte}

theorem getD_of_prefix (h : l <+: m) {j : Nat} (hj : j < l.length) : l.getD j 0 = m.getD j 0 := by
  obtain ⟨r, rfl⟩ := h
  exact (List.getD_append l r 0 j hj).symm

theorem concat_prefix (h : l <+: m) {b : Byte} (hb : m[l.length]? = some b) : l ++ [b] <+: m := by
  obtain ⟨r, rfl⟩ := h
  cases r with
  | nil => simp at hb
  | cons a r =>
    obtain rfl : a = b := by simpa using hb
    exact ⟨r, by simp⟩

theorem byteAt_prefix (h : l <+: m) {off : Nat} (ho : off + 8 ≤ l.length) : byteAt l off = byteAt m off :=
  congrArg (fun g => decodeByte (Vector.ofFn g)) (funext fun k => getD_of_prefix h (by omega))

theorem wordAt_prefix (h : l <+: m) {off : Nat} (ho : off + 32 ≤ l.length) : wordAt l off = wordAt m off :=
  congrArg (fun g => decodeInt32 (Vector.ofFn g)) (funext fun k => getD_of_prefix h (by omega))

theorem headerOf_get (l : List Byte) (k : Fin 54) : (headerOf l).get k = l.getD k.val 0 := by
  simp [headerOf, Vector.get_eq_getElem]

theorem headerOf_get_prefix (h : l <+: m) {k : Fin 54} (hk : k.val < l.length) :
    (headerOf l).get k = (headerOf m).get k := by
  rw [headerOf_get, headerOf_get, getD_of_prefix h hk]

theorem headerOf_prefix (h : l <+: m) (hl : 54 ≤ l.length) : headerOf l = headerOf m :=
  vector_ext_get fun _ => headerOf_get_prefix h (by omega)

theorem signatureOk_prefix (h : l <+: m) (hl : 2 ≤ l.length) :
    signatureOk (headerOf l) = signatureOk (headerOf m) := by
  unfold signatureOk
  rw [headerOf_get_prefix h (k := 0) (Nat.lt_of_lt_of_le (by decide) hl), headerOf_get_prefix h (k := 1) hl]

/-- The header buffer takes the next byte read. -/
theorem headerOf_concat {k : Fin 54} (hk : l.length = k.val) (b : Byte) :
    (headerOf l).set k.val b = headerOf (l ++ [b]) := by
  refine vector_ext_get fun j => ?_
  have hset := headerByte_set (headerOf l) k b j.isLt
  rw [headerByte_eq_get, headerByte_eq_get, headerOf_get] at hset
  rw [hset, headerOf_get]
  split_ifs with hj
  · rw [hj, ← hk, List.getD_eq_getElem?_getD, List.getElem?_concat_length, Option.getD_some]
  · by_cases hlt : j.val < l.length
    · rw [List.getD_append _ _ _ _ hlt]
    · rw [List.getD_eq_default _ _ (by omega), List.getD_eq_default _ _ (by simp; omega)]

/-- A header buffer holds the first bytes of a list. -/
theorem headerOf_eq {h : Vector Byte 54} (hh : ∀ j, j < 54 → l[j]? = some (headerByte h j)) : headerOf l = h :=
  vector_ext_get fun k => by
    rw [headerOf_get, List.getD_eq_getElem?_getD, hh k.val k.isLt, headerByte_eq_get, Option.getD_some]

end

/-! ### How far a served DECODE has got -/

/-- The status of a DECODE that works on a field. -/
def decodeStatus (f : Field) : Status :=
  { PrimitiveStatus .none false with
    busy := true, done := false, mode := true, phase := phaseBefore f, mmatch := pastMarkers f }

variable (F : FramedCarrier)

/-- A DECODE runs, and what it has read is the beginning of the carrier. -/
structure DecodeRuns (s : State) : Prop where
  kind : s.session.kind = .decode
  rst : s.rst = false
  params : s.params = F.params
  cin : s.cin <+: F.carrier
  cinPos : s.cinPos = BitVec.ofNat 64 s.cin.length

/-- The header is being read (R211). -/
structure BeforeFrame (s : State) : Prop extends DecodeRuns F s where
  hdr : s.session.hdr = headerOf s.cin
  status : s.status = { decodeStatus (.marker 0) with phase := .idle }
  ext : s.ext = 0
  pout : s.pout = []

/-- The results hold what the frame says as far as the fields before `f` go (R214 to R220). -/
structure ResultsUpTo (s : State) (f : Field) : Prop where
  width : s.width = headerWidth (headerOf F.carrier)
  height : s.height = headerHeight (headerOf F.carrier)
  cap : s.cap = BitVec.ofNat 66 F.capacity
  dmarker : ∀ j, j < markersBefore F.params f → byteOf s.dmarker j = byteOf F.params.marker j
  extLen : hasExtLen f = true → s.extLen = F.el
  ext : ∀ j, j < 4 → byteOf s.ext j = if j < extsBefore F.el.toNat f then byteOf F.ext j else 0
  payloadLen : hasPayloadLen f = true → s.payloadLen = F.pl
  pout : s.pout = F.payload.take (deliveredBefore f)

/-- A DECODE that runs has come to field `f`. -/
structure ReadUpTo (s : State) (f : Field) : Prop extends DecodeRuns F s, ResultsUpTo F s f where
  status : s.status = decodeStatus f
  el : hasExtLen f = true → s.session.el = F.el
  pl : hasPayloadLen f = true → s.session.pl = F.pl

/-- The DECODE has completed without error at the end of the frame (R221, R222). -/
structure FrameDecoded (s : State) : Prop extends ResultsUpTo F s (.payload F.pl.toNat) where
  status : s.status = { PrimitiveStatus .none false with phase := .done, mmatch := true, mode := true }
  cin : s.cin = F.carrier.take (frameEnd F.params F.el.toNat F.pl.toNat)
  cinPos : s.cinPos = BitVec.ofNat 64 (frameEnd F.params F.el.toNat F.pl.toNat)

/-- Where a DECODE served from the carrier stands after `n` transactions. -/
inductive Served (s : State) (n : Nat) : Prop
  | header (k : Fin 54) (hc : s.session.cont = .header k) (h : BeforeFrame F s) (hl : s.cin.length = k.val)
      (hn : n = k.val)
  | fill (f : Field) (k : Fin 32) (hc : s.session.cont = .fill f k) (h : ReadUpTo F s f) (hf : F.HasField f)
      (hk : k.val < groupSize f) (hl : s.cin.length = F.start f + k.val)
      (hg : ∀ j, j < k.val → s.cin[F.start f + j]? = some (groupByte s.session.group j))
      (hn : n = F.start f + k.val + deliveredBefore f)
  | deliver (k : Nat) (b : Byte) (hc : s.session.cont = .deliver k b) (h : ReadUpTo F s (.payload k))
      (hk : k < F.pl.toNat) (hl : s.cin.length = F.start (.payload (k + 1))) (hb : F.payload[k]? = some b)
      (hn : n = F.start (.payload (k + 1)) + k)
  | done (h : FrameDecoded F s) (hn : n = F.transactions)

variable {F} {s : State}

/-! ### From one field to the next -/

theorem DecodeRuns.cinReceived {b : Byte} (h : DecodeRuns F s) (hb : F.carrier[s.cin.length]? = some b) :
    DecodeRuns F (cinReceived b s) where
  kind := h.kind
  rst := h.rst
  params := h.params
  cin := concat_prefix h.cin hb
  cinPos := by
    rw [cinReceived_cinPos, cinReceived_cin, h.cinPos, List.length_append, List.length_singleton, BitVec.ofNat_add]
    rfl

namespace ReadUpTo

/-- R217: a length passes when what it announces still fits the capacity; the counter has not wrapped so early. -/
theorem lengthOk {f : Field} {len max : Nat} (h : ReadUpTo F s f) (hmax : len ≤ max) (hpos : s.cin.length < 2 ^ 64)
    (hfit : s.cin.length + 8 * len ≤ F.capacity + 54) :
    lengthOk len max (remaining s.cap.toNat s.cinPos.toNat) = true := by
  have hcap : s.cap.toNat = F.capacity := h.cap ▸ toNat_capacity _ _
  rw [lengthOk_iff, hcap, h.cinPos, BitVec.toNat_ofNat, Nat.mod_eq_of_lt hpos]
  refine ⟨hmax, ?_⟩
  unfold remaining
  omega

/-- R186: the group of a field is read next. -/
theorem startGroup {f : Field} (h : ReadUpTo F s f) (hf : F.HasField f) (hl : s.cin.length = F.start f) :
    Served F (startGroup f s) (F.start f + deliveredBefore f) :=
  .fill f 0 rfl { h with } hf (groupSize_pos f) hl (fun j hj => absurd hj (Nat.not_lt_zero j)) rfl

/-- R220, R221: the next payload byte, or the end of the session. -/
theorem decodePayload {k : Nat} (h : ReadUpTo F s (.payload k)) (hk : k ≤ F.pl.toNat)
    (hl : s.cin.length = F.start (.payload k)) : Served F (decodePayload k s) (F.start (.payload k) + k) := by
  unfold Machine.decodePayload
  rw [h.pl rfl]
  split_ifs with hlt
  · exact h.startGroup hlt hl
  · obtain rfl : k = F.pl.toNat := by omega
    have hend : s.cin.length = frameEnd F.params F.el.toNat F.pl.toNat := hl
    have h' : FrameDecoded F { s with
        status := { s.status with phase := .done, err := .none, busy := false, done := true },
        session := Session.idle } := { h with
      status := by rw [h.status]; rfl
      cin := hend ▸ List.prefix_iff_eq_take.mp h.cin
      cinPos := hend ▸ h.cinPos }
    exact .done h' rfl

/-- R218, R219: the next extension character, or the payload length. -/
theorem decodeExt {k : Nat} (h : ReadUpTo F s (.ext k)) (hk : k ≤ F.el.toNat)
    (hl : s.cin.length = F.start (.ext k)) : Served F (decodeExt k s) (F.start (.ext k)) := by
  unfold Machine.decodeExt
  rw [h.el rfl]
  split_ifs with hlt
  · exact h.startGroup hlt hl
  · obtain rfl : k = F.el.toNat := by omega
    have hoff : F.start (.ext F.el.toNat) = F.start .payloadLen := by
      simp only [fieldStart_ext, fieldStart_payloadLen]
      omega
    rw [hoff] at hl ⊢
    have h' : ReadUpTo F (setPhase .extDone s) .payloadLen := { h with
      status := by simp only [setPhase, h.status]; rfl }
    exact h'.startGroup trivial hl

/-- R215: every marker byte is the parameter's, so the check passes whatever `MCHK` is. -/
theorem decodeMarkerCheck (h : ReadUpTo F s (.marker F.params.markerLen.val)) (hl : s.cin.length = F.start .extLen) :
    Served F (decodeMarkerCheck s) (F.start .extLen) := by
  have hm : markerMatches s.params s.dmarker = true := by
    rw [h.params, markerMatches_iff]
    exact h.dmarker
  unfold Machine.decodeMarkerCheck
  rw [hm]
  dsimp only
  rw [if_neg (by simp)]
  have h' : ReadUpTo F (setPhase .markerDone { s with status := { s.status with mmatch := true } }) .extLen := { h with
    status := by simp only [setPhase, h.status]; rfl }
  exact h'.startGroup trivial hl

/-- R214: the next marker byte, or the check. -/
theorem decodeMarker {k : Nat} (h : ReadUpTo F s (.marker k)) (hk : k ≤ F.params.markerLen.val)
    (hl : s.cin.length = F.start (.marker k)) : Served F (decodeMarker k s) (F.start (.marker k)) := by
  unfold Machine.decodeMarker
  rw [h.params]
  split_ifs with hlt
  · exact h.startGroup hlt hl
  · obtain rfl : k = F.params.markerLen.val := by omega
    exact h.decodeMarkerCheck hl

/-- R216, R217: the decoded extension length is the frame's, and passes its bounds. -/
theorem decodeExtLen (hF : F.Holds) (h : ReadUpTo F s .extLen) (hl : s.cin.length = F.start (.ext 0))
    (hv : decodeInt32 s.session.group = F.el) : Served F (decodeExtLen s) (F.start (.ext 0)) := by
  have hok : Machine.lengthOk F.el.toNat s.params.extMax.val (remaining s.cap.toNat s.cinPos.toNat) = true := by
    have hm := F.params.markerLen.isLt
    have hreq := hF.required_le
    unfold requiredBits at hreq
    simp only [fieldStart_ext] at hl
    exact h.lengthOk (h.params ▸ hF.el_le) (by omega) (by omega)
  unfold Machine.decodeExtLen
  rw [hv]
  dsimp only
  rw [if_pos hok]
  have h' : ReadUpTo F (setPhase .extLenDone { s with extLen := F.el, session := { s.session with el := F.el } })
      (.ext 0) := { h with
    status := by simp only [setPhase, h.status]; rfl
    extLen := fun _ => rfl
    el := fun _ => rfl }
  exact h'.decodeExt (Nat.zero_le _) hl

/-- R219: the decoded payload length is the frame's, and passes its bounds. -/
theorem decodePayloadLen (hF : F.Holds) (h : ReadUpTo F s .payloadLen) (hl : s.cin.length = F.start (.payload 0))
    (hv : decodeInt32 s.session.group = F.pl) : Served F (decodePayloadLen s) (F.start (.payload 0)) := by
  have hok : Machine.lengthOk F.pl.toNat s.params.payloadMax.toNat (remaining s.cap.toNat s.cinPos.toNat) = true := by
    have hm := F.params.markerLen.isLt
    have he := F.params.extMax.isLt
    have hel := hF.el_le
    have hreq := hF.required_le
    unfold requiredBits at hreq
    simp only [fieldStart_payload] at hl
    exact h.lengthOk (h.params ▸ hF.pl_le) (by omega) (by omega)
  unfold Machine.decodePayloadLen
  rw [hv]
  dsimp only
  rw [if_pos hok]
  have h' : ReadUpTo F
      (setPhase .payloadLenDone { s with payloadLen := F.pl, session := { s.session with pl := F.pl } })
      (.payload 0) := { h with
    status := by simp only [setPhase, h.status]; rfl
    payloadLen := fun _ => rfl
    pl := fun _ => rfl }
  exact h'.decodePayload (Nat.zero_le _) hl

/-- What a full group of the frame leads to (R213 to R220). -/
theorem decodeGroup {f : Field} (hF : F.Holds) (h : ReadUpTo F s f) (hf : F.HasField f)
    (hl : s.cin.length = F.start f + groupSize f)
    (hg : ∀ j, j < groupSize f → s.cin[F.start f + j]? = some (groupByte s.session.group j)) :
    Served F (decodeGroup f s) (F.start f + groupSize f + deliveredBefore f) := by
  have hbyte : groupSize f = 8 → decodeByte (first8 s.session.group) = byteAt F.carrier (F.start f) := fun h8 =>
    (decodeByte_group s.cin _ _ (h8 ▸ hg)).trans (byteAt_prefix h.cin (by omega))
  have hword : groupSize f = 32 → decodeInt32 s.session.group = wordAt F.carrier (F.start f) := fun h32 =>
    (decodeInt32_group s.cin _ _ (h32 ▸ hg)).trans (wordAt_prefix h.cin (by omega))
  have hnext : F.start f + groupSize f = F.start (nextField f) := fieldStart_nextField _ _ f
  rw [hnext] at hl ⊢
  cases f with
  | marker k =>
    have hv := (hbyte rfl).trans (hF.marker k hf)
    have hk : k < F.params.markerLen.val := hf
    have hm := F.params.markerLen.isLt
    have hd : ∀ j, j < k + 1 →
        byteOf (setByte s.dmarker k (byteOf F.params.marker k)) j = byteOf F.params.marker j := by
      intro j hj
      rw [byteOf_setByte _ _ _ _ (by omega)]
      split_ifs with hjk
      · rw [hjk]
      · exact h.dmarker j (Nat.lt_of_le_of_ne (Nat.le_of_lt_succ hj) hjk)
    have h' : ReadUpTo F { s with dmarker := setByte s.dmarker k (byteOf F.params.marker k) } (.marker (k + 1)) :=
      { h with dmarker := hd }
    unfold Machine.decodeGroup
    dsimp only
    rw [hv]
    exact h'.decodeMarker hf hl
  | extLen => exact h.decodeExtLen hF hl ((hword rfl).trans hF.extLen)
  | ext k =>
    have hv := (hbyte rfl).trans (hF.ext k hf)
    have he : ∀ j, j < 4 →
        byteOf (setByte s.ext k (byteOf F.ext k)) j = if j < k + 1 then byteOf F.ext j else 0 := by
      intro j hj
      rw [byteOf_setByte _ _ _ _ hj, h.ext j hj]
      change (if j = k then _ else if j < k then _ else _) = _
      obtain hlt | rfl | hgt := lt_trichotomy j k
      · rw [if_neg hlt.ne, if_pos hlt, if_pos (Nat.lt_succ_of_lt hlt)]
      · rw [if_pos rfl, if_pos (Nat.lt_succ_self j)]
      · rw [if_neg hgt.ne', if_neg hgt.not_gt, if_neg (Nat.not_lt.mpr hgt)]
    have h' : ReadUpTo F { s with ext := setByte s.ext k (byteOf F.ext k) } (.ext (k + 1)) := { h with ext := he }
    unfold Machine.decodeGroup
    dsimp only
    rw [hv]
    exact h'.decodeExt hf hl
  | payloadLen => exact h.decodePayloadLen hF hl ((hword rfl).trans hF.payloadLen)
  | payload k =>
    refine .deliver k _ rfl { h with } hf hl ?_ rfl
    rw [hbyte rfl]
    exact hF.payload k hf

end ReadUpTo

/-! ### The answers -/

/-- R211 to R214: the whole header is read, and the frame begins. -/
theorem BeforeFrame.headerDone (h : BeforeFrame F s) (hl : s.cin.length = 54) :
    Served F (decodeHeaderDone (loadDimensions s)) 54 := by
  have hhdr : s.session.hdr = headerOf F.carrier := h.hdr.trans (headerOf_prefix h.cin hl.ge)
  have h' : ReadUpTo F { s with
      width := headerWidth s.session.hdr, height := headerHeight s.session.hdr,
      cap := BitVec.ofNat 66 (imageCapacityBytes (headerWidth s.session.hdr) (headerHeight s.session.hdr)),
      status := { s.status with phase := .headerDone } } (.marker 0) := { h with
    width := by rw [hhdr]
    height := by rw [hhdr]
    cap := by rw [hhdr]
    dmarker := fun j hj => absurd hj (Nat.not_lt_zero j)
    extLen := nofun
    ext := fun j _ => by
      rw [h.ext]
      exact BitVec.extractLsb'_zero.trans (if_neg (Nat.not_lt_zero j)).symm
    payloadLen := nofun
    status := by rw [h.status]; rfl
    el := nofun
    pl := nofun }
  exact h'.decodeMarker (Nat.zero_le _) hl

/-- R182, R183: a byte of the header. -/
theorem BeforeFrame.readHeader {k : Fin 54} {b : Byte} (hF : F.Holds) (h : BeforeFrame F s) (hl : s.cin.length = k.val)
    (hb : F.carrier[s.cin.length]? = some b) :
    Served F (Machine.readHeader decodeHeaderDone k (.byte b) s) (k.val + 1) := by
  have hr : DecodeRuns F (cinReceived b s) := h.cinReceived hb
  have hp : s.cin ++ [b] <+: F.carrier := hr.cin
  have hl' : (s.cin ++ [b]).length = k.val + 1 := by simp [hl]
  have hhdr : s.session.hdr.set k.val b = headerOf (s.cin ++ [b]) := by rw [h.hdr, headerOf_concat hl]
  have h' : ∀ c, BeforeFrame F { s with
      cin := s.cin ++ [b], cinPos := s.cinPos + 1,
      session := { s.session with hdr := s.session.hdr.set k.val b, cont := c } } := fun c => { h with
    cin := hp
    cinPos := hr.cinPos
    hdr := hhdr }
  obtain ⟨e, -, -, hnb⟩ | ⟨b', hbb, ⟨hk1, hs, -⟩ | ⟨-, hk, he⟩ | ⟨hk53, he⟩⟩ :=
    readHeader_cases decodeHeaderDone k (.byte b) s
  · exact absurd rfl (hnb b)
  · cases hbb
    rw [hhdr, signatureOk_prefix hp (by omega), hF.signature] at hs
    cases hs
  · cases hbb
    rw [he]
    exact .header ⟨k.val + 1, hk⟩ rfl (h' _) hl' rfl
  · cases hbb
    have h54 : k.val + 1 = 54 := by omega
    rw [he, h54]
    exact (h' s.session.cont).headerDone (hl'.trans h54)

/-- R186: a byte of a carrier group. -/
theorem ReadUpTo.readGroup {f : Field} {k : Fin 32} {b : Byte} (hF : F.Holds) (h : ReadUpTo F s f) (hf : F.HasField f)
    (hk : k.val < groupSize f) (hl : s.cin.length = F.start f + k.val)
    (hg : ∀ j, j < k.val → s.cin[F.start f + j]? = some (groupByte s.session.group j))
    (hb : F.carrier[s.cin.length]? = some b) :
    Served F (Machine.readGroup Machine.decodeGroup f k (.byte b) s) (F.start f + k.val + deliveredBefore f + 1) := by
  have hl' : (s.cin ++ [b]).length = F.start f + (k.val + 1) := by simp [hl, Nat.add_assoc]
  have hg' : ∀ j, j < k.val + 1 →
      (s.cin ++ [b])[F.start f + j]? = some (groupByte (s.session.group.set k.val b) j) := by
    intro j hj
    rw [groupByte_set _ _ _ (by omega)]
    split_ifs with hjk
    · rw [hjk, ← hl, List.getElem?_concat_length]
    · exact getElem?_append_of_eq_some b (hg j (by omega))
  have hr : DecodeRuns F (cinReceived b s) := h.cinReceived hb
  have h' : ∀ c, ReadUpTo F { s with
      cin := s.cin ++ [b], cinPos := s.cinPos + 1,
      session := { s.session with group := s.session.group.set k.val b, cont := c } } f := fun c => { h with
    cin := hr.cin
    cinPos := hr.cinPos }
  obtain ⟨-, hnb⟩ | ⟨b', hbb, ⟨hlt, _, he⟩ | ⟨hle, he⟩⟩ := readGroup_cases Machine.decodeGroup f k (.byte b) s
  · exact absurd rfl (hnb b)
  · cases hbb
    rw [he]
    exact .fill f _ rfl (h' _) hf hlt hl' hg' (by dsimp only; omega)
  · cases hbb
    have hsz : k.val + 1 = groupSize f := by omega
    rw [hsz] at hl' hg'
    rw [he, Nat.add_right_comm, Nat.add_assoc _ k.val, hsz]
    exact (h' s.session.cont).decodeGroup hF hf hl' hg'

/-- R220: a payload byte taken by the host. -/
theorem ReadUpTo.deliver {k : Nat} {b : Byte} (h : ReadUpTo F s (.payload k)) (hk : k < F.pl.toNat)
    (hl : s.cin.length = F.start (.payload (k + 1))) (hb : F.payload[k]? = some b) :
    Served F (decodeDeliver k b .ok s) (F.start (.payload (k + 1)) + k + 1) := by
  have h' : ReadUpTo F (poutDelivered b s) (.payload (k + 1)) := { h with
    pout := by
      rw [poutDelivered_pout, h.pout]
      exact (List.take_add_one.trans (by rw [hb]; rfl)).symm }
  exact h'.decodePayload hk hl

/-! ### The whole run -/

/-- R78, R80: the byte of the carrier that answers a pending `CinRead`. -/
theorem DecodeRuns.serve_cinRead (h : DecodeRuns F s) (hp : s.pending = some .cinRead)
    (hlt : s.cin.length < F.carrier.length) :
    ∃ b, F.carrier[s.cin.length]? = some b ∧ serveMove F.carrier [] s = some (.readAnswer (.byte b)) ∧
      step { s with host := .readAnswer (.byte b) :: s.host } = answerRead (.byte b) s := by
  have hb := List.getElem?_eq_getElem hlt
  refine ⟨_, hb, ?_, step_readAnswer h.rst rfl⟩
  rw [serveMove, hp]
  dsimp only
  rw [streamAnswer, hb]

/-- One transaction of the served DECODE: the host has a move, and it leads one transaction on. -/
theorem Served.step {n : Nat} (hF : F.Holds) (h : Served F s n) (hn : n < F.transactions) :
    ∃ e t, serveMove F.carrier [] s = some e ∧ step { s with host := e :: s.host } = .next t ∧ Served F t (n + 1) := by
  have hend := hF.frameEnd_le
  cases h with
  | header k hc h hl hn =>
    subst hn
    have h54 : 54 ≤ frameEnd F.params F.el.toNat F.pl.toNat := by unfold frameEnd; omega
    obtain ⟨b, hb, hm, hs⟩ := h.serve_cinRead (pending_at h.kind hc) (by omega)
    exact ⟨_, _, hm, hs.trans (answerRead_decode_header _ h.kind hc), h.readHeader hF hl hb⟩
  | fill f k hc h hf hk hl hg hn =>
    subst hn
    have hfe : F.start f + groupSize f ≤ _ := fieldStart_add_groupSize_le hf
    obtain ⟨b, hb, hm, hs⟩ := h.serve_cinRead (pending_at h.kind hc) (by omega)
    exact ⟨_, _, hm, hs.trans (answerRead_decode_fill _ h.kind hc), h.readGroup hF hf hk hl hg hb⟩
  | deliver k b hc h hk hl hb hn =>
    subst hn
    have hm : serveMove F.carrier [] s = some (.writeAnswer .ok) := by
      rw [serveMove, pending_at h.kind hc]
      rfl
    have hs : Machine.step { s with host := .writeAnswer .ok :: s.host } = answerWrite .ok s :=
      step_writeAnswer h.rst rfl
    exact ⟨_, _, hm, hs.trans (answerWrite_deliver _ h.kind hc), h.deliver hk hl hb⟩
  | done h hn' => omega

theorem Served.serve (hF : F.Holds) (m : Nat) {n : Nat} (h : Served F s n) (hm : n + m ≤ F.transactions) :
    ∃ t, serve F.carrier [] m s = .next t ∧ Served F t (n + m) := by
  induction m generalizing s n with
  | zero => exact ⟨s, rfl, h⟩
  | succ m ih =>
    obtain ⟨e, t, he, ht, hs⟩ := h.step hF (by omega)
    obtain ⟨u, hu, hsu⟩ := ih hs (by omega)
    refine ⟨u, ?_, by rwa [Nat.add_right_comm] at hsu⟩
    rw [Machine.serve, he]
    dsimp only
    rw [ht]
    exact hu

/-- R210: the acceptance of DECODE leaves nothing read and nothing decoded. -/
theorem served_exec_decode {d d0 : State} (hp : d.params = F.params) (hr : d.rst = false)
    (h : exec .decode d = .next d0) : Served F d0 0 := by
  cases h
  have hdr : Vector.replicate 54 0 = headerOf [] := vector_ext_get fun k => by
    rw [headerOf_get, Vector.get_eq_getElem, Vector.getElem_replicate, List.getD_nil]
  exact .header 0 rfl
    { kind := rfl, rst := hr, params := hp, cin := List.nil_prefix, cinPos := rfl, hdr := hdr, status := rfl,
      ext := rfl, pout := rfl } rfl rfl

/-- After all its transactions the DECODE has completed. -/
theorem Served.frameDecoded (h : Served F s F.transactions) : FrameDecoded F s := by
  cases h with
  | done h _ => exact h
  | header k hc h hl hn =>
    have := k.isLt
    simp only [FramedCarrier.transactions, frameEnd] at hn
    omega
  | fill f k hc h hf hk hl hg hn =>
    have hfe : F.start f + groupSize f ≤ _ := fieldStart_add_groupSize_le hf
    have hd : deliveredBefore f ≤ F.pl.toNat := by
      cases f with
      | payload j => exact Nat.le_of_lt hf
      | marker | extLen | ext | payloadLen => exact Nat.zero_le _
    simp only [FramedCarrier.transactions] at hn
    omega
  | deliver k b hc h hk hl hb hn =>
    simp only [FramedCarrier.transactions, frameEnd, fieldStart_payload] at hn
    omega

/-- R277, R221: a DECODE served from a carrier that holds a frame completes after its transactions with the frame. -/
theorem serve_decode {d d0 : State} (hF : F.Holds) (hp : d.params = F.params) (hr : d.rst = false)
    (h : exec .decode d = .next d0) : ∃ u, serve F.carrier [] F.transactions d0 = .next u ∧ FrameDecoded F u := by
  obtain ⟨u, hu, hs⟩ := (served_exec_decode hp hr h).serve hF F.transactions (Nat.zero_add _).le
  rw [Nat.zero_add] at hs
  exact ⟨u, hu, hs.frameDecoded⟩

/-! ### The output of ENCODE -/

/-- The output carrier of an ENCODE that has completed, with the frame of its inputs. -/
def State.outputCarrier (t : State) : FramedCarrier :=
  { params := t.params, el := t.extLen, ext := t.ext, pl := t.payloadLen, payload := t.sin, carrier := t.cout }

/-- R194, R184: the output of a successful ENCODE holds its frame, and the dimensions and the capacity are those of its
header. -/
theorem outputCarrier_holds {s t : State} (htr : EncodeTrace s) (hk : s.session.kind = .encode)
    (hst : step s = .next t) (htb : t.status.busy = false) (htd : t.status.done = true) (hte : t.status.err = .none) :
    t.outputCarrier.Holds ∧ t.width = headerWidth (headerOf t.cout) ∧ t.height = headerHeight (headerOf t.cout) ∧
      t.cap.toNat = imageCapacityBytes t.width t.height := by
  have hr : EncodeRuns s := htr.runs hk
  obtain ⟨hc, rest, rfl⟩ := encode_completes_in_tail hk hr.busy hst htb htd hte
  have hp : EncodePoint s := htr.point hk
  simp only [EncodePoint, hc, hr.el_eq, hr.pl_eq] at hp
  obtain ⟨hsin, hend, hlen, -, hcap⟩ := hp
  have hg : IsStego s.params s.extLen s.ext s.payloadLen s.sin s.cin s.cout := by
    rw [← hr.el_eq, ← hr.ext_eq, ← hr.pl_eq]
    exact hr.stego
  obtain ⟨hm, hel, hext, hpl, hpay⟩ := frameReadsBack _ _ _ _ _ _ _ hg hlen hend hsin
  obtain ⟨⟨hhdr, hsig⟩, hw, hh, hcapacity, hreq, hfits⟩ := hr.checked hcap
  have hout : headerOf s.cout = s.session.hdr := headerOf_eq fun j hj =>
    (hg.eq_of_none hlen (frameBit_header _ _ _ _ _ hj)).trans (hhdr j hj)
  dsimp only [encodeFinish, complete, setPhase]
  refine ⟨⟨?_, ?_, hsin, ?_, ?_, hlen ▸ hend, hm, hel, hext, hpl, hpay⟩, ?_, ?_, hcapacity⟩
  · exact hr.el_eq ▸ hr.el_le
  · exact hr.pl_eq ▸ hr.pl_le
  · exact (congrArg signatureOk hout).trans (hsig (by decide))
  · rw [hreq, hr.el_eq, hr.pl_eq, hcapacity, hw, hh, ← hout] at hfits
    exact hfits
  · exact hw.trans (congrArg headerWidth hout.symm)
  · exact hh.trans (congrArg headerHeight hout.symm)

/-- Settles O47: the output of ENCODE holds the frame of its inputs, and DECODE gives back the frame it is served. -/
theorem roundTripLaw : Obligations.RoundTripLaw := by
  intro s t d d0 htr hk hst htb htd hte hp hr hd
  obtain ⟨hF, hw, hh, hcap⟩ := outputCarrier_holds htr hk hst htb htd hte
  obtain ⟨u, hu, hdec⟩ := serve_decode hF hp hr hd
  have hpout : u.pout = t.sin := hdec.pout.trans (List.take_of_length_le hF.payload_length.le)
  have hucap : u.cap = t.cap := by
    apply BitVec.eq_of_toNat_eq
    rw [hdec.cap, toNat_capacity, hcap, hw, hh]
    rfl
  exact ⟨u, hu, hdec.status, hdec.extLen rfl, hdec.ext, hdec.payloadLen rfl, hpout, hdec.width.trans hw.symm,
    hdec.height.trans hh.symm, hucap, hdec.cinPos⟩

end Sys2Proof.Machine
end

section
/-! PROOF. The capacity check (42_capacity.md): the formulas with their bounds (rules R160 to R162), and CAPCHK, which writes
both of them to their registers and reports whether the capacity suffices (R166). -/

namespace Sys2Proof.Machine

/-! ### The formulas -/

/-- R161: the three terms of 4 put together. -/
theorem requiredBits_eq (m el pl : Nat) : requiredBits m el pl = 8 * (12 + m + el + pl) := by
  unfold requiredBits
  omega

/-- R161: an empty frame still needs its three length fields. -/
theorem le_requiredBits (m el pl : Nat) : 96 ≤ requiredBits m el pl := by
  rw [requiredBits_eq]
  omega

/-- R162: the check fails exactly when the capacity is below the required bits. -/
theorem hasCapacity_eq_false_iff (cap req : Nat) : hasCapacity cap req = false ↔ cap < req := by
  rw [← Bool.not_eq_true, hasCapacity_iff, Nat.not_le]

/-- Settles O28: the formulas with their bounds, and the failing check. -/
theorem capacityFormulas : Obligations.CapacityFormulas :=
  ⟨fun w h => ⟨rfl, imageCapacityBytes_lt w h⟩,
    fun p e l => ⟨requiredBits_eq _ _ _, le_requiredBits _ _ _, requiredBits_lt p.markerLen e l⟩,
    hasCapacity_eq_false_iff⟩

/-! ### The words of `CAP` and `REQ` -/

/-- R42: `CAP_HI` shows the two top bits of the 66, zero-extended. -/
theorem setWidth_extractLsb'_cap (c : BitVec 66) :
    (c.extractLsb' 64 2).setWidth 32 = BitVec.ofNat 32 (c.toNat / 2 ^ 64) := by
  have := c.isLt
  apply BitVec.eq_of_toNat_eq
  simp only [BitVec.toNat_setWidth, BitVec.extractLsb'_toNat, BitVec.toNat_ofNat, Nat.shiftRight_eq_div_pow]
  omega

/-- R43: `REQ_HI` shows the five top bits of the 37, zero-extended. -/
theorem extractLsb'_setWidth_req (c : BitVec 37) :
    (c.setWidth 64).extractLsb' 32 32 = BitVec.ofNat 32 (c.toNat / 2 ^ 32) := by
  have := c.isLt
  apply BitVec.eq_of_toNat_eq
  simp only [BitVec.toNat_setWidth, BitVec.extractLsb'_toNat, BitVec.toNat_ofNat, Nat.shiftRight_eq_div_pow]
  omega

/-- R42: the three registers of `CAP` read as the words of its value, the lowest first. -/
theorem readRegister_cap (s : State) :
    readRegister 0x28 s = BitVec.ofNat 32 s.cap.toNat ∧ readRegister 0x2C s = BitVec.ofNat 32 (s.cap.toNat / 2 ^ 32) ∧
      readRegister 0x30 s = BitVec.ofNat 32 (s.cap.toNat / 2 ^ 64) :=
  ⟨rfl, congrArg (BitVec.ofNat 32) (Nat.shiftRight_eq_div_pow _ _), setWidth_extractLsb'_cap s.cap⟩

/-- R43: the two registers of `REQ` read as the words of its value, the lower first. -/
theorem readRegister_req (s : State) :
    readRegister 0x34 s = BitVec.ofNat 32 s.req.toNat ∧ readRegister 0x38 s = BitVec.ofNat 32 (s.req.toNat / 2 ^ 32) :=
  ⟨rfl, extractLsb'_setWidth_req s.req⟩

/-! ### CAPCHK -/

section Capchk

variable (s : State)

/-- The operands' capacity (R160). -/
abbrev State.operandCapacity : Nat := imageCapacityBytes s.width s.height

/-- The bits that the operands ask for (R161). -/
abbrev State.operandBits : Nat := requiredBits s.params.markerLen.val s.extLen.toNat s.payloadLen.toNat

/-- `CAP` and `REQ` as CAPCHK leaves them, on a pass and on a fail (R166). -/
abbrev loadOperandCapacity : State := loadRequired s.extLen s.payloadLen (loadCapacity s)

variable {s}

/-- R166: CAPCHK on operands that fit. -/
theorem completes_capchk_of_le (h : s.operandBits ≤ s.operandCapacity) :
    Completes { loadOperandCapacity s with status := PrimitiveStatus .none true } (exec .capchk s) :=
  ⟨Session.idle, rfl, rfl, if_pos ((hasCapacity_iff _ _).mpr h)⟩

/-- R166: CAPCHK on operands that do not fit. -/
theorem completes_capchk_of_lt (h : s.operandCapacity < s.operandBits) :
    Completes { loadOperandCapacity s with status := PrimitiveStatus .capacityError false } (exec .capchk s) :=
  ⟨Session.idle, rfl, rfl, if_neg (mt (hasCapacity_iff _ _).mp (Nat.not_le.mpr h))⟩

end Capchk

/-- Settles O30: the word is the encoding of CAPCHK, the two branches of the check, and the words of the exact values. -/
theorem capchkResult : Obligations.CapchkResult := by
  refine ⟨decodeCmd_encode .capchk, fun s => ?_⟩
  have hcap : (loadOperandCapacity s).cap.toNat = s.operandCapacity := toNat_capacity s.width s.height
  have hreq : (loadOperandCapacity s).req.toNat = s.operandBits := toNat_required _ s.extLen s.payloadLen
  obtain ⟨hcapLo, hcapMid, hcapHi⟩ := hcap ▸ readRegister_cap (loadOperandCapacity s)
  obtain ⟨hreqLo, hreqHi⟩ := hreq ▸ readRegister_req (loadOperandCapacity s)
  dsimp only
  rw [← requiredBits_eq]
  exact ⟨completes_capchk_of_le, completes_capchk_of_lt, hcapLo, hcapMid, hcapHi, hreqLo, hreqHi⟩

end Sys2Proof.Machine
end

section
/-! PROOF. The acceptance of ENCODE (43_frame_encode.md rule R181) and the single steps of a session: the signature check
(R182), the capacity check in the step of the last header byte (R184), and the tail (R192). -/

namespace Sys2Proof.Machine

/-! ### The acceptance of ENCODE -/

section Acceptance

variable {s : State}

/-- R181: operands in bounds start a session. -/
theorem exec_encode_of_le (he : s.extLen.toNat ≤ s.params.extMax.val)
    (hp : s.payloadLen.toNat ≤ s.params.payloadMax.toNat) :
    exec .encode s = .next (startSession
      { Session.idle with kind := .encode, cont := .header 0, el := s.extLen, ext := s.ext, pl := s.payloadLen }
      (clearCounters (accept false s))) :=
  if_neg (not_or.mpr ⟨he.not_gt, hp.not_gt⟩)

/-- R181: an operand out of bounds is an ArgumentError. -/
theorem exec_encode_of_gt
    (h : s.params.extMax.val < s.extLen.toNat ∨ s.params.payloadMax.toNat < s.payloadLen.toNat) :
    exec .encode s = .next (raise .argumentError (clearCounters (accept false s))) :=
  if_pos h

end Acceptance

/-- Settles O31: the two outcomes of the acceptance, with all four port records empty. -/
theorem encodeStarts : Obligations.EncodeStarts := by
  refine fun s => ⟨fun ⟨he, hp⟩ => ?_, fun h => ?_⟩
  · exact ⟨_, [], rfl, rfl, rfl, rfl, rfl, exec_encode_of_le he hp⟩
  · exact ⟨[], [], [], [], Session.idle, rfl, rfl, exec_encode_of_gt h⟩

/-! ### A byte of the header -/

section Header

variable {after : State → State} {k : Fin 54} {b : Byte} {s : State}

/-- R182: the second byte is there and the signature is wrong. -/
theorem readHeader_of_signature_wrong (hk : k.val = 1) (hs : signatureOk (s.session.hdr.set k.val b) = false) :
    readHeader after k (.byte b) s = raise .formatError (storeHeader k b (cinReceived b s)) :=
  if_pos ⟨hk, hs⟩

/-- R182, R183: a byte before the last one, the signature right once it is there. -/
theorem readHeader_of_lt (hk : k.val + 1 < 54)
    (hs : k.val = 1 → signatureOk (s.session.hdr.set k.val b) = true) :
    readHeader after k (.byte b) s = await (.header ⟨k.val + 1, hk⟩) (storeHeader k b (cinReceived b s)) := by
  have hn : ¬ (k.val = 1 ∧ signatureOk (s.session.hdr.set k.val b) = false) := fun ⟨h1, hf⟩ =>
    Bool.false_ne_true (hf.symm.trans (hs h1))
  exact (if_neg hn).trans (dif_pos hk)

/-- R183: the last byte of the header. -/
theorem readHeader_last (after : State → State) (b : Byte) (s : State) :
    readHeader after 53 (.byte b) s = after (loadDimensions
      { cinReceived b s with session := { s.session with hdr := s.session.hdr.set 53 b } }) := rfl

/-- Both sessions read the header by the one rule. -/
theorem answerRead_header (r : ReadResult) (hk : s.session.kind ≠ .none) (hc : s.session.cont = .header k) :
    ∃ after, answerRead r s = .next (readHeader after k r s) := by
  cases hs : s.session.kind with
  | none => exact absurd hs hk
  | encode => exact ⟨_, answerRead_encode_header r hs hc⟩
  | decode => exact ⟨_, answerRead_decode_header r hs hc⟩

end Header

/-- R182: the signature after its second byte is taken. -/
theorem signatureOk_set_one (hdr : Vector Byte 54) (b : Byte) :
    signatureOk (hdr.set 1 b) = true ↔ hdr.get 0 = 0x42 ∧ b = 0x4D := by
  simp [signatureOk, Vector.get_eq_getElem]

/-- Settles O33: what the header rule does with each answer at the bytes 0 and 1. -/
theorem signatureCheck : Obligations.SignatureCheck := by
  intro s rest r k hr hk hc h2 hh
  obtain ⟨after, ha⟩ := answerRead_header (s := { s with host := rest }) r hk hc
  dsimp only
  rw [step_readAnswer hr hh, ha]
  cases r with
  | endOfStream =>
    simp only [readHeader, h2, if_true]
    exact raises_raise .formatError _
  | err => exact raises_raise .ioError _
  | byte b =>
    refine ⟨fun h0 => ?_, fun h1 hM hB => ?_, fun h1 hne => ?_⟩
    · obtain rfl : k = 0 := Fin.ext h0
      rw [readHeader_of_lt (by decide) (fun h1 => absurd h1 (by decide))]
      rfl
    · obtain rfl : k = 1 := Fin.ext h1
      rw [readHeader_of_lt (by decide) fun _ => (signatureOk_set_one _ b).mpr ⟨hM, hB⟩]
      rfl
    · obtain rfl : k = 1 := Fin.ext h1
      have hs : signatureOk (s.session.hdr.set 1 b) = false := by
        rw [← Bool.not_eq_true, signatureOk_set_one]
        tauto
      rw [readHeader_of_signature_wrong rfl hs]
      exact raises_raise .formatError _

/-! ### The capacity check -/

section Preflight

variable {s : State}

/-- R184: the header declares enough capacity. -/
theorem encodePreflight_of_le
    (h : requiredBits s.params.markerLen.val s.session.el.toNat s.session.pl.toNat ≤
      imageCapacityBytes s.width s.height) :
    encodePreflight s =
      await (.headerOut 0) (setCapOk (loadRequired s.session.el s.session.pl (loadCapacity s))) :=
  if_pos ((hasCapacity_iff _ _).mpr h)

/-- R184: it does not. -/
theorem encodePreflight_of_lt
    (h : imageCapacityBytes s.width s.height <
      requiredBits s.params.markerLen.val s.session.el.toNat s.session.pl.toNat) :
    encodePreflight s = raise .capacityError (loadRequired s.session.el s.session.pl (loadCapacity s)) :=
  if_neg (mt (hasCapacity_iff _ _).mp h.not_ge)

/-- R184: the header copy starts, or the session ends. -/
theorem encodePreflight_cases (s : State) :
    encodePreflight s =
      await (.headerOut 0) (setCapOk (loadRequired s.session.el s.session.pl (loadCapacity s))) ∨
    encodePreflight s = raise .capacityError (loadRequired s.session.el s.session.pl (loadCapacity s)) :=
  (le_or_gt _ _).imp encodePreflight_of_le encodePreflight_of_lt

end Preflight

/-- Settles O34: the two branches of the check; before the last header byte nothing is delivered. -/
theorem capacityPreflight : Obligations.CapacityPreflight := by
  intro s rest b hr hk hc hh
  dsimp only
  rw [step_readAnswer hr hh, answerRead_encode_header (s := { s with host := rest }) _ hk hc, readHeader_last,
    ← requiredBits_eq, ← imageCapacityBytes]
  refine ⟨fun h => ?_, fun h => ?_, fun htr => ?_⟩
  · rw [encodePreflight_of_le h]
    simp only [Continues, await, setCapOk, loadRequired, loadCapacity, loadDimensions, cinReceived]
  · rw [encodePreflight_of_lt h]
    simp only [loadRequired, loadCapacity, loadDimensions, cinReceived]
    exact raises_raise .capacityError _
  · have hp := htr.point hk
    simp only [EncodePoint, hc] at hp
    obtain ⟨-, hout, -⟩ := hp
    exact hout

/-! ### The tail -/

/-- Settles O38: the tail's rule at each answer. -/
theorem tailPassthrough : Obligations.TailPassthrough := by
  constructor
  · intro s rest r hr hk hc hh
    rw [step_readAnswer hr hh, answerRead_tail (s := { s with host := rest }) r hk hc]
    cases r with
    | byte b => rfl
    | endOfStream => exact raises_raise .none _
    | err => exact raises_raise .ioError _
  · intro s rest w b hr hk hc hh
    rw [step_writeAnswer hr hh, answerWrite_tailOut (s := { s with host := rest }) w hk hc]
    cases w with
    | ok => rfl
    | err => exact raises_raise .ioError _

end Sys2Proof.Machine
end

section
/-! PROOF. An ENCODE served from a carrier that takes its frame runs to its end without error after exactly
`2N + 1 + PL` transactions (43_frame_encode.md rules R181 to R194, 70_reset_and_hazards.md rule R277). -/

namespace Sys2Proof.Machine

/-! ### What an ENCODE that goes on leaves unchanged -/

/-- The kind of the session, its operand registers, the parameters, the reset input, and `STATUS` but for CAP_OK and the
phase. -/
def State.encodeFixed (s : State) : Kind × Params × Bool × Word × Word × Word × Status :=
  (s.session.kind, s.params, s.rst, s.extLen, s.ext, s.payloadLen, { s.status with capOk := false, phase := .idle })

section

variable (s : State)

theorem encodePayload_fixed (n : Nat) : (encodePayload n s).encodeFixed = s.encodeFixed := by
  unfold encodePayload
  split <;> rfl

theorem encodeExt_fixed (n : Nat) : (encodeExt n s).encodeFixed = s.encodeFixed := by
  unfold encodeExt
  split <;> rfl

theorem encodeMarker_fixed (n : Nat) : (encodeMarker n s).encodeFixed = s.encodeFixed := by
  unfold encodeMarker
  split <;> rfl

theorem encodeAfter_fixed (f : Field) : (encodeAfter f s).encodeFixed = s.encodeFixed := by
  cases f with
  | marker n => exact encodeMarker_fixed s (n + 1)
  | extLen => exact encodeExt_fixed _ 0
  | ext n => exact encodeExt_fixed s (n + 1)
  | payloadLen => exact encodePayload_fixed _ 0
  | payload n => exact encodePayload_fixed s (n + 1)

theorem encodeHeaderOut_ok_fixed (k : Fin 54) : (encodeHeaderOut k .ok s).encodeFixed = s.encodeFixed := by
  unfold encodeHeaderOut
  dsimp only
  split
  · rfl
  · exact encodeMarker_fixed _ 0

theorem encodeEmit_ok_fixed (f : Field) (k : Fin 32) : (encodeEmit f k .ok s).encodeFixed = s.encodeFixed := by
  unfold encodeEmit
  dsimp only
  split
  · rfl
  · exact encodeAfter_fixed _ f

/-- R183, R184: the dimensions are loaded and the check passes. -/
theorem encodePreflight_loadDimensions_fixed
    (h : requiredBits s.params.markerLen.val s.session.el.toNat s.session.pl.toNat ≤
      imageCapacityBytes (headerWidth s.session.hdr) (headerHeight s.session.hdr)) :
    (encodePreflight (loadDimensions s)).encodeFixed = s.encodeFixed := by
  rw [← loadDimensions_width, ← loadDimensions_height] at h
  rw [encodePreflight_of_le (s := loadDimensions s) h]
  simp only [State.encodeFixed, await, setCapOk, loadRequired, loadCapacity, loadDimensions]

theorem readGroup_byte_fixed (f : Field) (k : Fin 32) (b : Byte) :
    (readGroup encodeGroup f k (.byte b) s).encodeFixed = s.encodeFixed := by
  unfold readGroup
  dsimp only
  split <;> rfl

end

/-! ### The served session -/

/-- What ENCODE checks of a carrier, and room for the whole frame in it (R182, R184, R82). -/
structure FramedCarrier.Takes (F : FramedCarrier) : Prop where
  payload_length : F.payload.length = F.pl.toNat
  signature : signatureOk (headerOf F.carrier) = true
  required_le : requiredBits F.params.markerLen.val F.el.toNat F.pl.toNat ≤ F.capacity
  frameEnd_le : frameEnd F.params F.el.toNat F.pl.toNat ≤ F.carrier.length

/-- The bytes the ports have carried: one per transaction answered with a byte or `Ok`. -/
def State.carried (s : State) : Nat := s.cin.length + s.sin.length + s.cout.length

theorem cinReceived_carried (b : Byte) (s : State) : (cinReceived b s).carried = s.carried + 1 := by
  simp only [State.carried, cinReceived_cin, cinReceived_sin, cinReceived_cout, List.length_append,
    List.length_singleton]
  omega

theorem sinReceived_carried (b : Byte) (s : State) : (sinReceived b s).carried = s.carried + 1 := by
  simp only [State.carried, sinReceived_cin, sinReceived_sin, sinReceived_cout, List.length_append,
    List.length_singleton]
  omega

theorem coutDelivered_carried (b : Byte) (s : State) : (coutDelivered b s).carried = s.carried + 1 := by
  simp only [State.carried, coutDelivered_cin, coutDelivered_sin, coutDelivered_cout, List.length_append,
    List.length_singleton]
  omega

theorem carried_of_traffic {s t : State} (h : t.traffic = s.traffic) : t.carried = s.carried := by
  injection h with hcin _ hsin _ hcout
  simp only [State.carried, hcin, hsin, hcout]

variable (F : FramedCarrier)

/-- An ENCODE of the operands runs, and what it has read is the beginning of the carrier and of the payload. -/
structure EncodeServed (s : State) : Prop where
  trace : EncodeTrace s
  fixed : s.encodeFixed = (.encode, F.params, false, F.el, F.ext, F.pl,
    { PrimitiveStatus .none false with busy := true, done := false })
  cin : s.cin <+: F.carrier
  sin : s.sin <+: F.payload

/-- The ENCODE has completed without error, with the stego image delivered (R192, R194). -/
structure FrameEncoded (s : State) : Prop where
  status : s.status = { PrimitiveStatus .none true with phase := .done }
  cin : s.cin = F.carrier
  sin : s.sin = F.payload
  cout_length : s.cout.length = F.carrier.length
  stego : IsStego F.params F.el F.ext F.pl F.payload F.carrier s.cout

/-- The transactions of a whole ENCODE: a `CinRead` and a `CoutWrite` per carrier byte, a `SinRead` per payload byte, and
the `CinRead` that meets the end of the carrier. -/
def FramedCarrier.encodeTransactions : Nat := 2 * F.carrier.length + 1 + F.payload.length

/-- Where an ENCODE served from the carrier and the payload stands after `n` transactions. -/
inductive EncodeReached (s : State) (n : Nat) : Prop
  | running (h : EncodeServed F s) (hn : n = s.carried)
  | done (h : FrameEncoded F s) (hn : n = F.encodeTransactions)

/-- The host has a move, and it leads the ENCODE one transaction on. -/
def EncodeAdvances (s : State) : Prop :=
  ∃ e t, serveMove F.carrier F.payload s = some e ∧ step { s with host := e :: s.host } = .next t ∧
    EncodeReached F t (s.carried + 1)

variable {F} {s : State}

namespace EncodeServed

variable (h : EncodeServed F s)
include h

theorem kind : s.session.kind = .encode := congrArg (·.1) h.fixed
theorem params : s.params = F.params := congrArg (·.2.1) h.fixed
theorem rst : s.rst = false := congrArg (·.2.2.1) h.fixed
theorem el : s.session.el = F.el := (h.trace.el_eq h.kind).trans (congrArg (·.2.2.2.1) h.fixed)
theorem ext : s.session.ext = F.ext := (h.trace.ext_eq h.kind).trans (congrArg (·.2.2.2.2.1) h.fixed)
theorem pl : s.session.pl = F.pl := (h.trace.pl_eq h.kind).trans (congrArg (·.2.2.2.2.2.1) h.fixed)

/-- `STATUS` but for CAP_OK and the phase. -/
theorem status : s.status =
    { PrimitiveStatus .none s.status.capOk with busy := true, done := false, phase := s.status.phase } :=
  congrArg (fun x => { x.2.2.2.2.2.2 with capOk := s.status.capOk, phase := s.status.phase }) h.fixed

theorem cout_length_le : s.cout.length ≤ s.cin.length := (h.trace.stego h.kind).1

theorem step_readAnswer (r : ReadResult) : step { s with host := .readAnswer r :: s.host } = answerRead r s :=
  Machine.step_readAnswer h.rst rfl

theorem step_writeAnswer (w : WriteResult) : step { s with host := .writeAnswer w :: s.host } = answerWrite w s :=
  Machine.step_writeAnswer h.rst rfl

/-- A byte of the carrier answered to a `CinRead`. -/
theorem advances_of_cinRead (hp : s.pending = some .cinRead) (hlt : s.cin.length < F.carrier.length)
    (ha : ∀ b, F.carrier[s.cin.length]? = some b →
      ∃ t, answerRead (.byte b) s = .next t ∧ t.encodeFixed = s.encodeFixed) : EncodeAdvances F s := by
  have hb := List.getElem?_eq_getElem hlt
  obtain ⟨t, ht, hfix⟩ := ha _ hb
  have hm : serveMove F.carrier F.payload s = some (.readAnswer (.byte F.carrier[s.cin.length])) := by
    rw [serveMove, hp]
    dsimp only
    rw [streamAnswer, hb]
  have htr := (answerRead_byte_traffic ht).1 hp
  have hn := (carried_of_traffic htr).trans (cinReceived_carried _ s)
  injection htr with hcin _ hsin
  refine ⟨_, t, hm, (h.step_readAnswer _).trans ht, .running
    ⟨answerRead_encodeTrace h.trace ht, hfix.trans h.fixed, ?_, hsin ▸ h.sin⟩ hn.symm⟩
  rw [hcin]
  exact concat_prefix h.cin hb

/-- A byte of the payload answered to a `SinRead`. -/
theorem advances_of_sinRead (hp : s.pending = some .sinRead) (hlt : s.sin.length < F.payload.length)
    (ha : ∀ b, ∃ t, answerRead (.byte b) s = .next t ∧ t.encodeFixed = s.encodeFixed) : EncodeAdvances F s := by
  have hb := List.getElem?_eq_getElem hlt
  obtain ⟨t, ht, hfix⟩ := ha F.payload[s.sin.length]
  have hm : serveMove F.carrier F.payload s = some (.readAnswer (.byte F.payload[s.sin.length])) := by
    rw [serveMove, hp]
    dsimp only
    rw [streamAnswer, hb]
  have htr := (answerRead_byte_traffic ht).2 hp
  have hn := (carried_of_traffic htr).trans (sinReceived_carried _ s)
  injection htr with hcin _ hsin
  refine ⟨_, t, hm, (h.step_readAnswer _).trans ht, .running
    ⟨answerRead_encodeTrace h.trace ht, hfix.trans h.fixed, hcin ▸ h.cin, ?_⟩ hn.symm⟩
  rw [hsin]
  exact concat_prefix h.sin hb

/-- `Ok` answered to a `CoutWrite`. -/
theorem advances_of_coutWrite {b : Byte} (hp : s.pending = some (.coutWrite b))
    (ha : ∃ t, answerWrite .ok s = .next t ∧ t.encodeFixed = s.encodeFixed) : EncodeAdvances F s := by
  obtain ⟨t, ht, hfix⟩ := ha
  have hm : serveMove F.carrier F.payload s = some (.writeAnswer .ok) := by
    rw [serveMove, hp]
  have htr := (answerWrite_ok_traffic ht).1 hp
  have hn := (carried_of_traffic htr).trans (coutDelivered_carried _ s)
  injection htr with hcin _ hsin
  exact ⟨_, t, hm, (h.step_writeAnswer _).trans ht, .running
    ⟨answerWrite_encodeTrace h.trace ht, hfix.trans h.fixed, hcin ▸ h.cin, hsin ▸ h.sin⟩ hn.symm⟩

/-! ### The header -/

/-- The header buffer holds the carrier's bytes as far as it is filled. -/
theorem header_get {k : Fin 54} {b : Byte} (hh : HeaderRead s k.val) (hl : s.cin.length = k.val)
    (hb : F.carrier[s.cin.length]? = some b) {j : Fin 54} (hj : j ≤ k) :
    (s.session.hdr.set k.val b).get j = (headerOf F.carrier).get j := by
  rw [← headerByte_eq_get, headerByte_set _ _ _ j.isLt, headerOf_get, List.getD_eq_getElem?_getD]
  split_ifs with hjk
  · rw [hjk, ← hl, hb, Option.getD_some]
  · have hlt : j.val < k.val := by omega
    rw [← List.getD_eq_getElem?_getD, ← getD_of_prefix h.cin (hl ▸ hlt), List.getD_eq_getElem?_getD,
      hh.1 j.val hlt, Option.getD_some]

/-- R182: the signature is the carrier's. -/
theorem header_signature (hF : F.Takes) {k : Fin 54} {b : Byte} (hh : HeaderRead s k.val) (hl : s.cin.length = k.val)
    (hb : F.carrier[s.cin.length]? = some b) (hk : 1 ≤ k) : signatureOk (s.session.hdr.set k.val b) = true := by
  rw [← hF.signature]
  unfold signatureOk
  rw [h.header_get hh hl hb (Fin.zero_le k), h.header_get hh hl hb hk]

/-- R182 to R184: a header byte, the checks passed. -/
theorem readHeader_fixed (hF : F.Takes) {k : Fin 54} {b : Byte} (hh : HeaderRead s k.val)
    (hl : s.cin.length = k.val) (hb : F.carrier[s.cin.length]? = some b) :
    (readHeader encodePreflight k (.byte b) s).encodeFixed = s.encodeFixed := by
  by_cases hk : k.val + 1 < 54
  · rw [readHeader_of_lt hk fun h1 => h.header_signature hF hh hl hb (Fin.le_def.mpr h1.ge)]
    rfl
  · obtain rfl : k = 53 := Fin.ext (by omega)
    have hhdr : s.session.hdr.set 53 b = headerOf F.carrier :=
      vector_ext_get fun j => h.header_get hh hl hb (Fin.le_last j)
    have hreq := hF.required_le
    rw [← h.params, ← h.el, ← h.pl] at hreq
    rw [readHeader_last, hhdr]
    exact encodePreflight_loadDimensions_fixed
      { cinReceived b s with session := { s.session with hdr := headerOf F.carrier } } hreq

/-! ### One transaction -/

/-- R192: the `CinRead` of the tail meets the end of the carrier. -/
theorem advances_of_end (hF : F.Takes) (hc : s.session.cont = .tail) (hcin : s.cin = F.carrier) :
    EncodeAdvances F s := by
  have hp : EncodePoint s := h.trace.point h.kind
  simp only [EncodePoint, hc, h.pl] at hp
  obtain ⟨hsl, -, hlen, -, hcap⟩ := hp
  have hsin : s.sin = F.payload := h.sin.eq_of_length (hsl.trans hF.payload_length.symm)
  have hm : serveMove F.carrier F.payload s = some (.readAnswer .endOfStream) := by
    rw [serveMove, pending_at h.kind hc, hcin]
    dsimp only [Session.pending]
    rw [streamAnswer, List.getElem?_eq_none (Nat.le_refl _)]
  have hst : step { s with host := .readAnswer .endOfStream :: s.host } = .next (encodeFinish s) :=
    (h.step_readAnswer _).trans (answerRead_tail _ h.kind hc)
  refine ⟨_, _, hm, hst, .done ⟨?_, hcin, hsin, hlen.trans (congrArg _ hcin), ?_⟩ ?_⟩
  · simp only [encodeFinish, complete, setPhase]
    rw [h.status, hcap]
    rfl
  · have hg := h.trace.stego h.kind
    rw [h.params, h.el, h.ext, h.pl, hsin, hcin] at hg
    exact hg
  · simp only [State.carried, hlen, hcin, hsin, FramedCarrier.encodeTransactions]
    omega

/-- At each point of the program the host's answer leads on. -/
theorem advances (hF : F.Takes) : EncodeAdvances F s := by
  have hp : EncodePoint s := h.trace.point h.kind
  have hend := hF.frameEnd_le
  cases hc : s.session.cont with
  | idle | deliver => simp only [EncodePoint, hc] at hp
  | header k =>
    simp only [EncodePoint, hc] at hp
    obtain ⟨hl, -, -, hh, -⟩ := hp
    have h54 : 54 ≤ frameEnd F.params F.el.toNat F.pl.toNat := by unfold frameEnd; omega
    exact h.advances_of_cinRead (pending_at h.kind hc) (by omega) fun b hb =>
      ⟨_, answerRead_encode_header _ h.kind hc, h.readHeader_fixed hF hh hl hb⟩
  | headerOut k =>
    exact h.advances_of_coutWrite (pending_at h.kind hc)
      ⟨_, answerWrite_headerOut _ h.kind hc, encodeHeaderOut_ok_fixed s k⟩
  | payloadIn k =>
    simp only [EncodePoint, hc, h.pl] at hp
    obtain ⟨hlt, hs, -⟩ := hp
    have hpl := hF.payload_length
    exact h.advances_of_sinRead (pending_at h.kind hc) (by omega) fun b =>
      ⟨_, answerRead_payloadIn _ h.kind hc, rfl⟩
  | fill f k =>
    simp only [EncodePoint, hc, h.params, h.el, h.pl] at hp
    obtain ⟨hf, hk, -, -, hl, -⟩ := hp
    have hfe := fieldStart_add_groupSize_le hf
    exact h.advances_of_cinRead (pending_at h.kind hc) (by omega) fun b _ =>
      ⟨_, answerRead_encode_fill _ h.kind hc, readGroup_byte_fixed s f k b⟩
  | emit f k =>
    exact h.advances_of_coutWrite (pending_at h.kind hc)
      ⟨_, answerWrite_emit _ h.kind hc, encodeEmit_ok_fixed s f k⟩
  | tail =>
    by_cases hlt : s.cin.length < F.carrier.length
    · exact h.advances_of_cinRead (pending_at h.kind hc) hlt fun b _ => ⟨_, answerRead_tail _ h.kind hc, rfl⟩
    · exact h.advances_of_end hF hc (h.cin.eq_of_length_le (Nat.not_lt.mp hlt))
  | tailOut b => exact h.advances_of_coutWrite (pending_at h.kind hc) ⟨_, answerWrite_tailOut _ h.kind hc, rfl⟩

/-- A running ENCODE has transactions to come. -/
theorem carried_lt : s.carried < F.encodeTransactions := by
  have hcin := h.cin.length_le
  have hsin := h.sin.length_le
  have hcout := h.cout_length_le
  unfold State.carried FramedCarrier.encodeTransactions
  omega

end EncodeServed

/-! ### The whole run -/

/-- A property that each transaction of a served session leads on by one holds after any number of them. -/
theorem serve_of_step {carrier payload : List Byte} {P : State → Nat → Prop} {total : Nat}
    (hP : ∀ s n, P s n → n < total → ∃ e t, serveMove carrier payload s = some e ∧
      step { s with host := e :: s.host } = .next t ∧ P t (n + 1))
    (m : Nat) {s : State} {n : Nat} (h : P s n) (hm : n + m ≤ total) :
    ∃ t, serve carrier payload m s = .next t ∧ P t (n + m) := by
  induction m generalizing s n with
  | zero => exact ⟨s, rfl, h⟩
  | succ m ih =>
    obtain ⟨e, t, he, ht, hs⟩ := hP s n h (by omega)
    obtain ⟨u, hu, hsu⟩ := ih hs (by omega)
    refine ⟨u, ?_, by rwa [Nat.add_right_comm] at hsu⟩
    rw [serve, he]
    dsimp only
    rw [ht]
    exact hu

namespace EncodeReached

theorem serve (hF : F.Takes) {m : Nat} (h : EncodeReached F s 0) (hm : m ≤ F.encodeTransactions) :
    ∃ t, serve F.carrier F.payload m s = .next t ∧ EncodeReached F t m := by
  have hstep : ∀ s n, EncodeReached F s n → n < F.encodeTransactions → ∃ e t,
      serveMove F.carrier F.payload s = some e ∧ step { s with host := e :: s.host } = .next t ∧
      EncodeReached F t (n + 1) := by
    rintro s n (⟨h, rfl⟩ | ⟨-, rfl⟩) hn
    · exact h.advances hF
    · exact absurd hn (Nat.lt_irrefl _)
  obtain ⟨t, ht, hr⟩ := serve_of_step hstep m h ((Nat.zero_add m).trans_le hm)
  exact ⟨t, ht, Nat.zero_add m ▸ hr⟩

theorem busy {n : Nat} (h : EncodeReached F s n) (hn : n < F.encodeTransactions) : s.status.busy = true := by
  obtain ⟨h, -⟩ | ⟨-, hn'⟩ := h
  · exact congrArg Status.busy h.status
  · exact absurd hn' hn.ne

theorem frameEncoded (h : EncodeReached F s F.encodeTransactions) : FrameEncoded F s := by
  obtain ⟨h, hn⟩ | ⟨h, -⟩ := h
  · exact absurd hn h.carried_lt.ne'
  · exact h

end EncodeReached

/-- The operands of a state with a carrier and a payload: what an ENCODE accepted there is to hide, and where. -/
def State.inputCarrier (s : State) (carrier payload : List Byte) : FramedCarrier :=
  { params := s.params, el := s.extLen, ext := s.ext, pl := s.payloadLen, payload := payload, carrier := carrier }

/-- R181: the acceptance of ENCODE leaves nothing carried. -/
theorem encodeReached_exec {t0 : State} (carrier payload : List Byte) (hr : s.rst = false)
    (hx : exec .encode s = .next t0) (he : s.extLen.toNat ≤ s.params.extMax.val)
    (hp : s.payloadLen.toNat ≤ s.params.payloadMax.toNat) : EncodeReached (s.inputCarrier carrier payload) t0 0 := by
  have htr := exec_encodeTrace hx
  cases (exec_encode_of_le he hp).symm.trans hx
  exact .running ⟨htr, congrArg (fun r => (Kind.encode, s.params, r, s.extLen, s.ext, s.payloadLen,
    { PrimitiveStatus .none false with busy := true, done := false })) hr, List.nil_prefix, List.nil_prefix⟩ rfl

/-- Settles O45: each transaction leads the session one byte on, and the last one completes it. -/
theorem encodeRunCompletes : Obligations.EncodeRunCompletes := by
  intro s t0 carrier payload hr hx he hp hl hsig hreq hend
  have hF : (s.inputCarrier carrier payload).Takes := ⟨hl, hsig, hreq, hend⟩
  have h0 := encodeReached_exec carrier payload hr hx he hp
  refine ⟨fun m hm => ?_, ?_⟩
  · obtain ⟨u, hu, h⟩ := h0.serve hF hm.le
    exact ⟨u, hu, h.busy hm⟩
  · obtain ⟨t, ht, h⟩ := h0.serve hF (Nat.le_refl _)
    obtain ⟨hst, hcin, hsin, hlen, hstego⟩ := h.frameEncoded
    exact ⟨t, ht, hst, hcin, hsin, hlen, hstego⟩

end Sys2Proof.Machine
end

section
/-! PROOF. A step that ends a session with an error keeps all that was done before it (60_exceptions.md rules R243, R246):
the points of the two session programs at which an answer can raise one, each with what it has written by then. -/

namespace Sys2Proof.Machine

/-! ### Where an answer raises an error -/

/-- The states `u` in which a move of the host can raise an error: the one before it if it brought no byte, and else what
the rule that took the byte has written before its check. The session of `u` is discarded, so what the rule stored in it
is left out where no register is computed from it. -/
inductive FailsAt (s : State) : HostEvent → State → Prop
  /-- R244: `End` or `Err`. -/
  | noByte {e : HostEvent} (he : ∀ b, e ≠ .readAnswer (.byte b)) : FailsAt s e s
  /-- R182: the signature is wrong. -/
  | signature (k : Fin 54) (b : Byte) (hc : s.session.cont = .header k) (hk : k.val = 1) :
      FailsAt s (.readAnswer (.byte b)) (cinReceived b s)
  /-- R184: the header declares too little capacity. -/
  | capacity (b : Byte) (hc : s.session.cont = .header 53) :
      FailsAt s (.readAnswer (.byte b)) (loadRequired s.session.el s.session.pl (loadCapacity (loadDimensions
        { cinReceived b s with session := { s.session with hdr := s.session.hdr.set 53 b } })))
  /-- R214, R215: the marker does not match. -/
  | marker (j : Nat) (k : Fin 32) (b : Byte) (hc : s.session.cont = .fill (.marker j) k) :
      FailsAt s (.readAnswer (.byte b)) { cinReceived b s with
        dmarker := setByte s.dmarker j (decodeByte (first8 (s.session.group.set k.val b)))
        status := { s.status with mmatch := false } }
  /-- R216: the extension length is out of bounds. -/
  | extLen (k : Fin 32) (b : Byte) (hc : s.session.cont = .fill .extLen k) :
      FailsAt s (.readAnswer (.byte b)) { cinReceived b s with extLen := decodeInt32 (s.session.group.set k.val b) }
  /-- R219: the payload length is out of bounds. -/
  | payloadLen (k : Fin 32) (b : Byte) (hc : s.session.cont = .fill .payloadLen k) :
      FailsAt s (.readAnswer (.byte b))
        { cinReceived b s with payloadLen := decodeInt32 (s.session.group.set k.val b) }

/-- The move of the host has led to `t` without an error, or an error was raised. -/
def GoesOnOrRaises (s : State) (e : HostEvent) (t : State) : Prop :=
  t.status.err = .none ∨ ∃ (k : ErrKind) (u : State), FailsAt s e u ∧ t = raise k u

variable {s t : State}

theorem GoesOnOrRaises.ofNoByte {e : HostEvent} (k : ErrKind) (he : ∀ b, e ≠ .readAnswer (.byte b)) :
    GoesOnOrRaises s e (raise k s) := .inr ⟨k, s, .noByte he, rfl⟩

/-- R182 to R184, R211: a header byte, given what may fail after the last one. -/
theorem readHeader_goesOnOrRaises {after : State → State} {k : Fin 54} (r : ReadResult) (hs : s.status.err = .none)
    (hc : s.session.cont = .header k)
    (ha : ∀ b, r = .byte b → k = 53 → GoesOnOrRaises s (.readAnswer r) (after (loadDimensions
      { cinReceived b s with session := { s.session with hdr := s.session.hdr.set 53 b } }))) :
    GoesOnOrRaises s (.readAnswer r) (readHeader after k r s) := by
  obtain ⟨e, he, -, hb⟩ | ⟨b, rfl, ⟨hk, -, he⟩ | ⟨-, _, he⟩ | ⟨hk, he⟩⟩ := readHeader_cases after k r s
  · rw [he]
    exact .ofNoByte e fun b h => hb b (HostEvent.readAnswer.inj h)
  · rw [he]
    exact .inr ⟨.formatError, _, .signature k b hc hk, rfl⟩
  · rw [he]
    exact .inl hs
  · obtain rfl : k = 53 := Fin.ext hk
    rw [readHeader_last]
    exact ha b rfl rfl

/-- R186: a byte of a carrier group, given what may fail after the last one. -/
theorem readGroup_goesOnOrRaises {after : Field → State → State} (f : Field) (k : Fin 32) (r : ReadResult)
    (hs : s.status.err = .none)
    (ha : ∀ b, r = .byte b →
      GoesOnOrRaises s (.readAnswer r) (after f (storeGroup k b (cinReceived b s)))) :
    GoesOnOrRaises s (.readAnswer r) (readGroup after f k r s) := by
  obtain ⟨he, hb⟩ | ⟨b, rfl, ⟨-, _, he⟩ | ⟨-, he⟩⟩ := readGroup_cases after f k r s <;> rw [he]
  · exact .ofNoByte .ioError fun b h => hb b (HostEvent.readAnswer.inj h)
  · exact .inl hs
  · exact ha b rfl

/-- R184: the capacity check. -/
theorem encodePreflight_goesOnOrRaises {b : Byte} (hs : s.status.err = .none) (hc : s.session.cont = .header 53) :
    GoesOnOrRaises s (.readAnswer (.byte b)) (encodePreflight (loadDimensions
      { cinReceived b s with session := { s.session with hdr := s.session.hdr.set 53 b } })) := by
  obtain he | he := encodePreflight_cases (loadDimensions
      { cinReceived b s with session := { s.session with hdr := s.session.hdr.set 53 b } }) <;> rw [he]
  · exact .inl hs
  · exact .inr ⟨.capacityError, _, .capacity b hc, rfl⟩

/-- R214 to R219: the fields of DECODE that are checked. -/
theorem decodeGroup_goesOnOrRaises {f : Field} {k : Fin 32} {b : Byte} (hs : s.status.err = .none)
    (hc : s.session.cont = .fill f k) :
    GoesOnOrRaises s (.readAnswer (.byte b)) (decodeGroup f (storeGroup k b (cinReceived b s))) := by
  cases f with
  | marker j =>
    unfold decodeGroup
    dsimp only
    obtain ⟨-, he⟩ | ⟨-, -, -, he⟩ | ⟨-, -, he⟩ := decodeMarker_cases (j + 1)
      { storeGroup k b (cinReceived b s) with
        dmarker := setByte s.dmarker j (decodeByte (first8 (s.session.group.set k.val b))) }
    · exact .inl (he ▸ hs)
    · exact .inr ⟨.formatError, _, .marker j k b hc, he⟩
    · exact .inl (he ▸ hs)
  | extLen =>
    unfold decodeGroup decodeExtLen
    dsimp only
    split
    · exact .inl (decodeExt_err 0 hs)
    · exact .inr ⟨.formatError, _, .extLen k b hc, rfl⟩
  | ext j => exact .inl (decodeExt_err (j + 1) hs)
  | payloadLen =>
    unfold decodeGroup decodePayloadLen
    dsimp only
    split
    · exact .inl (decodePayload_err 0 hs)
    · exact .inr ⟨.formatError, _, .payloadLen k b hc, rfl⟩
  | payload j => exact .inl hs

theorem answerRead_goesOnOrRaises {r : ReadResult} (hs : s.status.err = .none) (h : answerRead r s = .next t) :
    GoesOnOrRaises s (.readAnswer r) t := by
  unfold answerRead at h
  split at h
  next => cases h
  next =>
    split at h <;> cases h
    next hc =>
      refine readHeader_goesOnOrRaises r hs hc ?_
      rintro b rfl rfl
      exact encodePreflight_goesOnOrRaises hs hc
    next => exact readGroup_goesOnOrRaises _ _ r hs fun b _ => .inl hs
    next =>
      cases r with
      | byte b => exact .inl hs
      | endOfStream | err => exact .ofNoByte .ioError nofun
    next =>
      cases r with
      | byte b => exact .inl hs
      | endOfStream => exact .inl rfl
      | err => exact .ofNoByte .ioError nofun
  next =>
    split at h <;> cases h
    next hc => exact readHeader_goesOnOrRaises r hs hc fun b _ _ => .inl (decodeHeaderDone_err hs)
    next hc =>
      refine readGroup_goesOnOrRaises _ _ r hs ?_
      rintro b rfl
      exact decodeGroup_goesOnOrRaises hs hc

theorem answerWrite_goesOnOrRaises {w : WriteResult} (hs : s.status.err = .none) (h : answerWrite w s = .next t) :
    GoesOnOrRaises s (.writeAnswer w) t := by
  unfold answerWrite at h
  cases w with
  | err =>
    split at h
    · cases h
    · split at h <;> cases h <;> exact .ofNoByte .ioError nofun
    · split at h <;> cases h
      exact .ofNoByte .ioError nofun
  | ok =>
    split at h
    next => cases h
    next =>
      split at h <;> cases h
      next =>
        simp only [encodeHeaderOut]
        split
        · exact .inl hs
        · exact .inl (encodeMarker_err 0 hs)
      next =>
        simp only [encodeEmit]
        split
        · exact .inl hs
        · exact .inl (encodeAfter_err _ hs)
      next => exact .inl hs
    next =>
      split at h <;> cases h
      exact .inl (decodePayload_err _ hs)

/-- Only an answer ends a running session with an error, and it raises it. -/
theorem step_raises (hs : StatusInv s) (hb : s.status.busy = true) (h : step s = .next t) (he : t.status.err ≠ .none) :
    ∃ e rest k u, s.host = e :: rest ∧ FailsAt { s with host := rest } e u ∧ t = raise k u := by
  have herr := hs.err_of_busy hb
  obtain ⟨rest, ⟨r, hh, ha⟩ | ⟨w, hh, ha⟩⟩ | ⟨u, rfl⟩ | ⟨x, rfl⟩ | ⟨hi, -⟩ := step_inversion h
  · obtain hn | ⟨k, u, hf, rfl⟩ := answerRead_goesOnOrRaises (s := { s with host := rest }) herr ha
    · exact absurd hn he
    · exact ⟨_, rest, k, u, hh, hf, rfl⟩
  · obtain hn | ⟨k, u, hf, rfl⟩ := answerWrite_goesOnOrRaises (s := { s with host := rest }) herr ha
    · exact absurd hn he
    · exact ⟨_, rest, k, u, hh, hf, rfl⟩
  · exact absurd rfl he
  · exact absurd herr he
  · exact absurd (hi.symm.trans hb) Bool.false_ne_true

/-! ### What it keeps and what it adds -/

namespace FailsAt

variable {u : State} {e : HostEvent}

/-- R243: the phase, the bytes that went out or came in on SIN, and the registers that no rule of a session writes before a
check. -/
theorem kept (h : FailsAt s e u) :
    u.status.phase = s.status.phase ∧ u.status.mode = s.status.mode ∧ u.cout = s.cout ∧ u.pout = s.pout ∧
    u.outPos = s.outPos ∧ u.sin = s.sin ∧ u.sinPos = s.sinPos ∧ u.value = s.value ∧ u.cw = s.cw ∧ u.cmd = s.cmd ∧
    u.ie = s.ie ∧ u.mchk = s.mchk ∧ u.ext = s.ext := by
  cases h with
  | capacity => simp
  | noByte | signature | marker | extLen | payloadLen =>
    exact ⟨rfl, rfl, rfl, rfl, rfl, rfl, rfl, rfl, rfl, rfl, rfl, rfl, rfl⟩

theorem eq_of_noByte (h : FailsAt s e u) (he : ∀ b, e ≠ .readAnswer (.byte b)) : u = s := by
  cases h with
  | noByte => rfl
  | signature _ b | capacity b | marker _ _ b | extLen _ b | payloadLen _ b => exact absurd rfl (he b)

end FailsAt

/-- Settles O41: the error is raised at one of the points of `FailsAt`, on what the step has written by then. -/
theorem errorsArePrecise : Obligations.ErrorsArePrecise := by
  intro s t hs hb h he
  obtain ⟨e, rest, k, u, hh, hf, rfl⟩ := step_raises hs hb h he
  obtain ⟨hphase, hmode, hcout, hpout, houtPos, hsin, hsinPos, hvalue, hcw, hcmd, hie, hmchk, hext⟩ := hf.kept
  refine ⟨rfl, rfl, rfl, rfl, hphase, hmode, hcout, hpout, houtPos, hsin, hsinPos, hvalue, hcw, hcmd, hie, hmchk, hext,
    fun hn => ?_, fun b rest' hh' => ?_⟩
  · obtain rfl := hf.eq_of_noByte fun b hb => hn b rest (hb ▸ hh)
    exact ⟨⟨rfl, rfl, rfl, rfl, rfl, rfl, rfl, rfl, rfl, rfl, rfl, rfl, rfl, rfl, rfl, rfl⟩, rfl⟩
  · obtain ⟨rfl, -⟩ := List.cons.inj (hh.symm.trans hh')
    cases hf with
    | noByte hn => exact absurd rfl (hn b)
    | signature i _ hc hi =>
      replace hc : s.session.cont = .header i := hc
      have h53 : i ≠ 53 := by rintro rfl; cases hi
      simp [hc, h53]
    | capacity _ hc =>
      replace hc : s.session.cont = .header 53 := hc
      simp [hc, imageCapacityBytes, requiredBits_eq]
    | marker j i _ hc =>
      replace hc : s.session.cont = .fill (.marker j) i := hc
      simp [hc]
    | extLen i _ hc =>
      replace hc : s.session.cont = .fill .extLen i := hc
      simp [hc]
    | payloadLen i _ hc =>
      replace hc : s.session.cont = .fill .payloadLen i := hc
      simp [hc]

end Sys2Proof.Machine
end

section
/-! PROOF. The checks that DECODE makes in the step of a last byte (44_frame_decode.md): the marker comparison (rule
R215) and the bounds of the two lengths (R216, R217, R219). -/

namespace Sys2Proof.Machine

/-! ### The last byte of a group -/

/-- R186: the last byte completes its group. -/
theorem readGroup_last {after : Field → State → State} {f : Field} {k : Fin 32} (hk : groupSize f ≤ k.val + 1)
    (b : Byte) (s : State) : readGroup after f k (.byte b) s = after f (storeGroup k b (cinReceived b s)) :=
  dif_neg hk.not_gt

/-- A byte `b` has been taken and completes the group to `g`, before the rule of the field (R186). -/
def State.groupTaken (s : State) (rest : List HostEvent) (b : Byte) (g : Vector Byte 32) : State :=
  { cinReceived b { s with host := rest } with session := { s.session with group := g } }

/-- R213: the step of the last byte of a group runs the rule of its field. -/
theorem step_decodeGroup {s : State} {rest : List HostEvent} {b : Byte} {f : Field} {k : Fin 32} (hr : s.rst = false)
    (hd : s.session.kind = .decode) (hc : s.session.cont = .fill f k) (hk : groupSize f ≤ k.val + 1)
    (hh : s.host = .readAnswer (.byte b) :: rest) :
    step s = .next (decodeGroup f (s.groupTaken rest b (s.session.group.set k.val b))) := by
  rw [step_readAnswer hr hh, answerRead_decode_fill (s := { s with host := rest }) _ hd hc, readGroup_last hk]
  rfl

/-- A byte `b` has been taken and completes the header to `hdr`, before the dimensions are loaded (R183). -/
def State.headerTaken (s : State) (rest : List HostEvent) (b : Byte) (hdr : Vector Byte 54) : State :=
  { cinReceived b { s with host := rest } with session := { s.session with hdr := hdr } }

/-- R183, R211: the step of the last byte of the header. -/
theorem step_headerDone {s : State} {rest : List HostEvent} {b : Byte} (hr : s.rst = false)
    (hd : s.session.kind = .decode) (hc : s.session.cont = .header 53) (hh : s.host = .readAnswer (.byte b) :: rest) :
    step s = .next (decodeHeaderDone (loadDimensions (s.headerTaken rest b (s.session.hdr.set 53 b)))) := by
  rw [step_readAnswer hr hh, answerRead_decode_header (s := { s with host := rest }) _ hd hc, readHeader_last]
  rfl

/-! ### The rules, branch by branch -/

section Branches

variable {s : State} {k : Nat} {m : Bool}

/-- R215: a mismatch with `MCHK` latched. -/
theorem decodeMarker_of_mismatch (hk : s.params.markerLen.val ≤ k) (hm : markerMatches s.params s.dmarker = m)
    (h : s.session.mchkL = true ∧ m = false) :
    decodeMarker k s = raise .formatError { s with status := { s.status with mmatch := m } } := by
  subst hm
  exact (if_neg hk.not_gt).trans (if_pos h)

/-- R215: a match, or a mismatch that `MCHK` lets pass. -/
theorem decodeMarker_of_passes (hk : s.params.markerLen.val ≤ k) (hm : markerMatches s.params s.dmarker = m)
    (h : s.session.mchkL = false ∨ m = true) :
    decodeMarker k s =
      startGroup .extLen (setPhase .markerDone { s with status := { s.status with mmatch := m } }) := by
  subst hm
  exact (if_neg hk.not_gt).trans (if_neg fun ⟨hl, hf⟩ => h.elim (by simp [hl]) (by simp [hf]))

/-- R215: with no marker byte there is nothing to differ. -/
theorem markerMatches_of_no_marker {p : Params} (h : p.markerLen.val = 0) (d : Word) : markerMatches p d = true :=
  (markerMatches_iff p d).mpr fun k hk => absurd (h ▸ hk) (Nat.not_lt_zero k)

/-- R212, R215: the header of a frame without a marker. -/
theorem decodeHeaderDone_of_no_marker (h : s.params.markerLen.val = 0) :
    decodeHeaderDone s = startGroup .extLen (setPhase .markerDone { loadCapacity s with
      status := { s.status with phase := .headerDone, mmatch := true } }) :=
  decodeMarker_of_passes (s := setPhase .headerDone (loadCapacity s)) h.le (markerMatches_of_no_marker h _) (.inr rfl)

/-- Marker byte `k` is taken from its group (R214). -/
def takeMarker (k : Nat) (s : State) : State :=
  { s with dmarker := setByte s.dmarker k (decodeByte (first8 s.session.group)) }

theorem decodeGroup_marker (k : Nat) (s : State) :
    decodeGroup (.marker k) s = decodeMarker (k + 1) (takeMarker k s) := rfl

/-- The extension length is taken from its group (R216). -/
def takeExtLen (s : State) : State :=
  { s with
    extLen := decodeInt32 s.session.group, session := { s.session with el := decodeInt32 s.session.group } }

/-- The payload length is taken from its group (R219). -/
def takePayloadLen (s : State) : State :=
  { s with
    payloadLen := decodeInt32 s.session.group, session := { s.session with pl := decodeInt32 s.session.group } }

theorem lengthOk_eq_false_iff (len max : Nat) (rem : Int) :
    lengthOk len max rem = false ↔ max < len ∨ rem < 8 * (len : Int) := by
  rw [← Bool.not_eq_true, lengthOk_iff, not_and_or, Nat.not_le, Int.not_le]

/-- R217: an extension length in bounds. -/
theorem decodeExtLen_of_le (h : (decodeInt32 s.session.group).toNat ≤ s.params.extMax.val ∧
      8 * ((decodeInt32 s.session.group).toNat : Int) ≤ remaining s.cap.toNat s.cinPos.toNat) :
    decodeExtLen s = decodeExt 0 (setPhase .extLenDone (takeExtLen s)) :=
  if_pos ((lengthOk_iff _ _ _).mpr h)

/-- R217: an extension length out of bounds. -/
theorem decodeExtLen_of_gt (h : s.params.extMax.val < (decodeInt32 s.session.group).toNat ∨
      remaining s.cap.toNat s.cinPos.toNat < 8 * ((decodeInt32 s.session.group).toNat : Int)) :
    decodeExtLen s = raise .formatError (takeExtLen s) :=
  if_neg (by rw [(lengthOk_eq_false_iff _ _ _).mpr h]; exact Bool.false_ne_true)

/-- R219: a payload length in bounds. -/
theorem decodePayloadLen_of_le (h : (decodeInt32 s.session.group).toNat ≤ s.params.payloadMax.toNat ∧
      8 * ((decodeInt32 s.session.group).toNat : Int) ≤ remaining s.cap.toNat s.cinPos.toNat) :
    decodePayloadLen s = decodePayload 0 (setPhase .payloadLenDone (takePayloadLen s)) :=
  if_pos ((lengthOk_iff _ _ _).mpr h)

/-- R219: a payload length out of bounds. -/
theorem decodePayloadLen_of_gt (h : s.params.payloadMax.toNat < (decodeInt32 s.session.group).toNat ∨
      remaining s.cap.toNat s.cinPos.toNat < 8 * ((decodeInt32 s.session.group).toNat : Int)) :
    decodePayloadLen s = raise .formatError (takePayloadLen s) :=
  if_neg (by rw [(lengthOk_eq_false_iff _ _ _).mpr h]; exact Bool.false_ne_true)

/-- R218: an extension character is left. -/
theorem decodeExt_of_lt (hk : k < s.session.el.toNat) : decodeExt k s = startGroup (.ext k) s := if_pos hk

/-- R218: none is left. -/
theorem decodeExt_of_ge (hk : s.session.el.toNat ≤ k) :
    decodeExt k s = startGroup .payloadLen (setPhase .extDone s) := if_neg hk.not_gt

/-- R220: a payload byte is left. -/
theorem decodePayload_of_lt (hk : k < s.session.pl.toNat) : decodePayload k s = startGroup (.payload k) s := if_pos hk

/-- R221: none is left. -/
theorem decodePayload_of_ge (hk : s.session.pl.toNat ≤ k) :
    decodePayload k s = decodeFinish (setPhase .payloadDone s) := if_neg hk.not_gt

end Branches

/-! ### The three checks -/

/-- What the session holds when an error is raised does not show. -/
theorem raises_raise_session (e : ErrKind) (x : Session) (s : State) :
    Raises e s (.next (raise e { s with session := x })) := ⟨Session.idle, rfl, rfl, rfl⟩

/-- Settles O35: the marker rule after its last byte, and after the header of a frame without a marker. -/
theorem markerCheck : Obligations.MarkerCheck := by
  constructor
  · intro s rest b j m hr hd hc hj hh
    have hstep : step s = .next (decodeGroup (.marker j) (s.groupTaken rest b (s.session.group.set 7 b))) :=
      step_decodeGroup hr hd hc (Nat.le_refl 8) hh
    dsimp only
    generalize s.session.group.set 7 b = g at hstep ⊢
    intro hm
    have hmatch := Bool.eq_iff_iff.mpr ((markerMatches_iff _ _).trans hm.symm)
    rw [hstep, decodeGroup_marker]
    constructor
    · intro h
      rw [decodeMarker_of_mismatch (s := takeMarker j (s.groupTaken rest b g)) hj.ge hmatch h]
      exact raises_raise_session .formatError _ _
    · intro h
      rw [decodeMarker_of_passes (s := takeMarker j (s.groupTaken rest b g)) hj.ge hmatch h]
      simp only [Continues, startGroup, await, setPhase, takeMarker, State.groupTaken, cinReceived]
  · intro s rest b hr hd hc h0 hh
    have hstep := step_headerDone hr hd hc hh
    dsimp only
    generalize s.session.hdr.set 53 b = hdr at hstep ⊢
    rw [hstep, decodeHeaderDone_of_no_marker (s := loadDimensions (s.headerTaken rest b hdr)) h0]
    simp only [Continues, startGroup, await, setPhase, loadCapacity, loadDimensions, imageCapacityBytes,
      State.headerTaken, cinReceived]

/-- Settles O36: the length is out of bounds, or in bounds with or without characters to read. -/
theorem extensionLengthBounds : Obligations.ExtensionLengthBounds := by
  intro s rest b hr hd hc hh
  have hstep : step s = .next (decodeGroup .extLen (s.groupTaken rest b (s.session.group.set 31 b))) :=
    step_decodeGroup hr hd hc (Nat.le_refl 32) hh
  dsimp only
  generalize s.session.group.set 31 b = g at hstep ⊢
  rw [hstep, decodeGroup]
  refine ⟨fun h => ?_, fun hmax hrem hpos => ?_, fun hmax hrem h0 => ?_⟩
  · rw [decodeExtLen_of_gt (s := s.groupTaken rest b g) h]
    exact raises_raise_session .formatError _ _
  · rw [decodeExtLen_of_le (s := s.groupTaken rest b g) ⟨hmax, hrem⟩, decodeExt_of_lt]
    · simp only [Continues, startGroup, await, setPhase, takeExtLen, State.groupTaken, cinReceived]
    · exact hpos
  · rw [decodeExtLen_of_le (s := s.groupTaken rest b g) ⟨hmax, hrem⟩, decodeExt_of_ge]
    · simp only [Continues, startGroup, await, setPhase, takeExtLen, State.groupTaken, cinReceived]
    · exact h0.le

/-- Settles O37: the length is out of bounds, or in bounds with or without bytes to read. -/
theorem payloadLengthBounds : Obligations.PayloadLengthBounds := by
  intro s rest b hr hd hc hh
  have hstep : step s = .next (decodeGroup .payloadLen (s.groupTaken rest b (s.session.group.set 31 b))) :=
    step_decodeGroup hr hd hc (Nat.le_refl 32) hh
  dsimp only
  generalize s.session.group.set 31 b = g at hstep ⊢
  rw [hstep, decodeGroup]
  refine ⟨fun h => ?_, fun hmax hrem hpos => ?_, fun hmax hrem h0 => ?_⟩
  · rw [decodePayloadLen_of_gt (s := s.groupTaken rest b g) h]
    exact raises_raise_session .formatError _ _
  · rw [decodePayloadLen_of_le (s := s.groupTaken rest b g) ⟨hmax, hrem⟩, decodePayload_of_lt]
    · simp only [Continues, startGroup, await, setPhase, takePayloadLen, State.groupTaken, cinReceived]
    · exact hpos
  · rw [decodePayloadLen_of_le (s := s.groupTaken rest b g) ⟨hmax, hrem⟩, decodePayload_of_ge]
    · simp only [decodeFinish, setPhase, takePayloadLen, State.groupTaken, cinReceived]
      exact raises_raise_session .none _ _
    · exact h0.le

end Sys2Proof.Machine
end

section
/-! PROOF. The trace invariant of DECODE is kept by every step (44_frame_decode.md rules R211 to R221). Each session
rule is shown to lead from a field of the frame, with what was decoded so far, to the next one, or to end the
session. -/

namespace Sys2Proof.Machine

/-! ### What has been decoded -/

theorem byteOf_zero (j : Nat) : byteOf 0#32 j = 0#8 := BitVec.extractLsb'_zero

/-- Before the first field nothing is decoded. -/
theorem decodedUpTo_marker_zero_iff {s : State} : DecodedUpTo s (.marker 0) ↔
    s.dmarker = 0 ∧ s.extLen = 0 ∧ s.ext = 0 ∧ s.payloadLen = 0 ∧ s.pout = [] := by
  constructor
  · intro h
    refine ⟨word_ext_byteOf fun j hj => ?_, h.extLen_rest rfl, word_ext_byteOf fun j hj => ?_, h.payloadLen_rest rfl,
      List.length_eq_zero_iff.mp h.pout_length⟩
    · exact (h.dmarker_rest j (Nat.zero_le j) hj).trans (byteOf_zero j).symm
    · exact (h.ext_rest j (Nat.zero_le j) hj).trans (byteOf_zero j).symm
  · rintro ⟨hd, hel, he, hpl, ho⟩
    constructor <;> simp [hd, hel, he, hpl, ho, byteOf_zero, markersBefore, extsBefore, hasExtLen, hasPayloadLen,
      deliveredBefore]

section Before

variable {p : Params} {el j : Nat} {f : Field}

/-! The groups of the fields before `f` end where that of `f` starts, or before. -/

theorem fieldStart_marker_before (h : j < markersBefore p f) : fieldStart p el (.marker j) + 8 ≤ fieldStart p el f := by
  cases f <;> simp only [markersBefore, fieldStart_marker, fieldStart_extLen, fieldStart_ext, fieldStart_payloadLen,
    fieldStart_payload] at h ⊢ <;> omega

theorem fieldStart_extLen_before (h : hasExtLen f = true) : fieldStart p el .extLen + 32 ≤ fieldStart p el f := by
  cases f <;> simp only [hasExtLen, Bool.false_eq_true, fieldStart_extLen, fieldStart_ext, fieldStart_payloadLen,
    fieldStart_payload] at h ⊢ <;> omega

theorem fieldStart_ext_before (h : j < extsBefore el f) : fieldStart p el (.ext j) + 8 ≤ fieldStart p el f := by
  cases f <;> simp only [extsBefore, fieldStart_marker, fieldStart_extLen, fieldStart_ext, fieldStart_payloadLen,
    fieldStart_payload] at h ⊢ <;> omega

theorem fieldStart_payloadLen_before (h : hasPayloadLen f = true) :
    fieldStart p el .payloadLen + 32 ≤ fieldStart p el f := by
  cases f <;> simp only [hasPayloadLen, Bool.false_eq_true, fieldStart_payloadLen, fieldStart_payload] at h ⊢
  omega

theorem fieldStart_payload_before (h : j < deliveredBefore f) :
    fieldStart p el (.payload j) + 8 ≤ fieldStart p el f := by
  cases f <;> simp only [deliveredBefore, fieldStart_payload, Nat.not_lt_zero] at h ⊢
  omega

end Before

/-- A further carrier byte changes nothing at the places of the fields that are decoded. -/
theorem DecodedUpTo.cinReceived {s : State} {f : Field} (h : DecodedUpTo s f) (b : Byte)
    (hl : fieldStart s.params s.extLen.toNat f ≤ s.cin.length) : DecodedUpTo (Machine.cinReceived b s) f :=
  { h with
    dmarker := fun j hj =>
      (h.dmarker j hj).trans (byteAt_append _ b ((fieldStart_marker_before hj).trans hl)).symm
    extLen := fun hf => (h.extLen hf).trans (wordAt_append _ b ((fieldStart_extLen_before hf).trans hl)).symm
    ext := fun j hj => (h.ext j hj).trans (byteAt_append _ b ((fieldStart_ext_before hj).trans hl)).symm
    payloadLen := fun hf =>
      (h.payloadLen hf).trans (wordAt_append _ b ((fieldStart_payloadLen_before hf).trans hl)).symm
    pout := fun j hj => by
      have hlt : j < deliveredBefore f := h.pout_length ▸ hj
      exact (h.pout j hj).trans (congrArg some (byteAt_append _ b ((fieldStart_payload_before hlt).trans hl)).symm) }

/-- While the header is read nothing is decoded yet. -/
theorem DecodedUpTo.cinReceived_header {s : State} (h : DecodedUpTo s (.marker 0)) (b : Byte) :
    DecodedUpTo (Machine.cinReceived b s) (.marker 0) :=
  have hz := decodedUpTo_marker_zero_iff.mp h
  decodedUpTo_marker_zero_iff.mpr hz

section Bytes

variable {w : Word} {v : Nat → Byte} {k : Nat} {b : Byte}

/-- The next byte lane is written: the lanes so far. -/
theorem byteOf_setByte_lt (hk : k < 4) (h : ∀ j, j < k → byteOf w j = v j) (hb : b = v k) :
    ∀ j, j < k + 1 → byteOf (setByte w k b) j = v j := by
  intro j hj
  rw [byteOf_setByte _ _ _ _ (by omega)]
  split_ifs with hjk
  · rw [hb, hjk]
  · exact h j (by omega)

/-- The next byte lane is written: the lanes to come. -/
theorem byteOf_setByte_ge (h : ∀ j, k ≤ j → j < 4 → byteOf w j = 0) :
    ∀ j, k + 1 ≤ j → j < 4 → byteOf (setByte w k b) j = 0 := by
  intro j hkj hj
  rw [byteOf_setByte _ _ _ _ hj, if_neg (by omega)]
  exact h j (by omega) hj

end Bytes

/-- The next byte of a carrier group is taken. -/
theorem groupBytes_concat {l : List Byte} {g : Vector Byte 32} {off : Nat} {k : Fin 32} (hl : l.length = off + k.val)
    (hg : ∀ j, j < k.val → l[off + j]? = some (groupByte g j)) (b : Byte) :
    ∀ j, j < k.val + 1 → (l ++ [b])[off + j]? = some (groupByte (g.set k.val b) j) := by
  intro j hj
  rw [groupByte_set _ _ _ (by omega)]
  split_ifs with hjk
  · rw [hjk, ← hl, List.getElem?_concat_length]
  · exact getElem?_append_of_eq_some b (hg j (by omega))

/-! ### The parts of the invariant -/

/-- The trace invariant of a running DECODE but for its point in the program. -/
structure DecodeActive (s : State) : Prop where
  kind : s.session.kind = .decode
  el_eq : s.session.el = s.extLen
  pl_eq : s.session.pl = s.payloadLen
  el_le : s.session.el.toNat ≤ s.params.extMax.val
  pl_le : s.session.pl.toNat ≤ s.params.payloadMax.toNat
  busy : s.status.busy = true

theorem DecodeTrace.active {s : State} (h : DecodeTrace s) (hk : s.session.kind = .decode) : DecodeActive s :=
  ⟨hk, h.el_eq hk, h.pl_eq hk, h.el_le hk, h.pl_le hk, h.busy hk⟩

theorem DecodeActive.trace {s : State} (h : DecodeActive s) (hp : DecodePoint s) : DecodeTrace s where
  el_eq _ := h.el_eq
  pl_eq _ := h.pl_eq
  el_le _ := h.el_le
  pl_le _ := h.pl_le
  busy _ := h.busy
  point _ := hp

/-- The header has been read, and the dimensions and the capacity it declares are loaded (R211, R212). -/
structure HeaderLoaded (s : State) : Prop where
  header : HeaderRead s 54
  cap_eq : s.cap.toNat = imageCapacityBytes s.width s.height
  width_eq : s.width = headerWidth s.session.hdr
  height_eq : s.height = headerHeight s.session.hdr

/-- A running DECODE has come to field `f` (R214 to R220). -/
structure AtField (s : State) (f : Field) : Prop extends DecodeActive s, HeaderLoaded s, DecodedUpTo s f where
  phase : s.status.phase = phaseBefore f
  mmatch : s.status.mmatch = (pastMarkers f && markerMatches s.params s.dmarker)
  mchk : pastMarkers f = true → s.session.mchkL = true → s.status.mmatch = true

/-- What an answer leads a running DECODE to that has latched `m` from `MCHK`: it goes on, it has failed, or it has
completed without error at the end of the frame of the state `u` (R221). -/
inductive DecodeLeadsTo (m : Bool) (t : State) : Prop
  | goesOn (h : DecodeTrace t) (hb : t.status.busy = true)
  | failed (hk : t.session.kind = .none) (he : t.status.err ≠ .none)
  | completed (u : State) (h : AtField u (.payload u.session.pl.toNat)) (hm : u.session.mchkL = m)
      (hl : u.cin.length = frameEnd u.params u.session.el.toNat u.session.pl.toNat)
      (ht : t = decodeFinish (setPhase .payloadDone u))

theorem DecodeLeadsTo.trace {m : Bool} {t : State} (h : DecodeLeadsTo m t) : DecodeTrace t := by
  cases h with
  | goesOn h _ => exact h
  | failed hk _ => exact decodeTrace_of_kind (by rw [hk]; nofun)
  | completed u _ _ _ ht => subst ht; exact decodeTrace_of_kind nofun

theorem decodeLeadsTo_raise {m : Bool} (e : ErrKind) (he : e ≠ .none) (s : State) : DecodeLeadsTo m (raise e s) :=
  .failed rfl he

/-! ### From one field to the next -/

namespace AtField

variable {s : State} {f : Field}

/-- R186: a byte of the group of a field is read next. -/
theorem awaitFill {k : Fin 32} (h : AtField s f) (hf : fieldInFrame s.params s.session.el.toNat s.session.pl.toNat f)
    (hk : k.val < groupSize f) (hl : s.cin.length = fieldStart s.params s.session.el.toNat f + k.val)
    (hg : ∀ j, j < k.val →
      s.cin[fieldStart s.params s.session.el.toNat f + j]? = some (groupByte s.session.group j)) :
    DecodeLeadsTo s.session.mchkL (await (.fill f k) s) :=
  .goesOn (DecodeActive.trace { h with } ⟨hf, hk, hl, h.header, h.cap_eq, h.width_eq, h.height_eq, hg, { h with },
    h.phase, h.mmatch, h.mchk⟩) h.busy

/-- R186: the group of a field is read next. -/
theorem startGroup (h : AtField s f) (hf : fieldInFrame s.params s.session.el.toNat s.session.pl.toNat f)
    (hl : s.cin.length = fieldStart s.params s.session.el.toNat f) :
    DecodeLeadsTo s.session.mchkL (startGroup f s) :=
  h.awaitFill hf (groupSize_pos f) hl fun j hj => absurd hj (Nat.not_lt_zero j)

/-- R220, R221: the next payload byte, or the end of the session. -/
theorem decodePayload {k : Nat} (h : AtField s (.payload k)) (hk : k ≤ s.session.pl.toNat)
    (hl : s.cin.length = fieldStart s.params s.session.el.toNat (.payload k)) :
    DecodeLeadsTo s.session.mchkL (decodePayload k s) := by
  obtain hlt | rfl := hk.lt_or_eq
  · rw [decodePayload_of_lt hlt]
    exact h.startGroup hlt hl
  · rw [decodePayload_of_ge hk]
    exact .completed s h rfl hl rfl

/-- R218, R219: the next extension character, or the payload length. -/
theorem decodeExt {k : Nat} (h : AtField s (.ext k)) (hk : k ≤ s.session.el.toNat)
    (hl : s.cin.length = fieldStart s.params s.session.el.toNat (.ext k)) :
    DecodeLeadsTo s.session.mchkL (decodeExt k s) := by
  obtain hlt | heq := hk.lt_or_eq
  · rw [decodeExt_of_lt hlt]
    exact h.startGroup hlt hl
  · rw [decodeExt_of_ge heq.ge]
    have hoff : fieldStart s.params s.session.el.toNat (.ext k) =
        fieldStart s.params s.session.el.toNat .payloadLen := by
      rw [fieldStart_ext, fieldStart_payloadLen]
      omega
    obtain rfl : k = s.extLen.toNat := heq.trans (congrArg _ h.el_eq)
    have h' : AtField (setPhase .extDone s) .payloadLen := { h with phase := rfl }
    exact h'.startGroup trivial (hl.trans hoff)

/-- R214 to R216: the next marker byte, or the comparison and the extension length. -/
theorem decodeMarker {k : Nat} (h : AtField s (.marker k)) (hk : k ≤ s.params.markerLen.val)
    (hl : s.cin.length = fieldStart s.params s.session.el.toNat (.marker k)) :
    DecodeLeadsTo s.session.mchkL (decodeMarker k s) := by
  obtain ⟨hlt, he⟩ | ⟨-, -, -, he⟩ | ⟨hge, hpass, he⟩ := decodeMarker_cases k s <;> rw [he]
  · exact h.startGroup hlt hl
  · exact decodeLeadsTo_raise .formatError nofun _
  · obtain rfl : k = s.params.markerLen.val := Nat.le_antisymm hk hge
    have h' : AtField (setPhase .markerDone
        { s with status := { s.status with mmatch := markerMatches s.params s.dmarker } }) .extLen := { h with
      phase := rfl
      mmatch := rfl
      mchk := fun _ hm => hpass.resolve_left (by simp [show s.session.mchkL = true from hm]) }
    exact h'.startGroup trivial hl

/-- R216, R217: the extension length, if its bounds hold. -/
theorem decodeExtLen (h : AtField s .extLen) (hl : s.cin.length = fieldStart s.params s.session.el.toNat (.ext 0))
    (hv : decodeInt32 s.session.group = wordAt s.cin (fieldStart s.params s.session.el.toNat .extLen)) :
    DecodeLeadsTo s.session.mchkL (decodeExtLen s) := by
  obtain hle | hgt := em ((decodeInt32 s.session.group).toNat ≤ s.params.extMax.val ∧
    8 * ((decodeInt32 s.session.group).toNat : Int) ≤ remaining s.cap.toNat s.cinPos.toNat)
  · rw [decodeExtLen_of_le hle]
    have hnone : s.pout.length = 0 := h.pout_length
    have h' : AtField (setPhase .extLenDone (takeExtLen s)) (.ext 0) := { h with
      el_eq := rfl
      el_le := hle.1
      extLen := fun _ => hv
      extLen_rest := nofun
      ext := fun j hj => absurd hj (Nat.not_lt_zero j)
      ext_rest := fun j _ => h.ext_rest j (Nat.zero_le j)
      payloadLen := nofun
      pout := fun j hj => absurd (hnone ▸ hj) (Nat.not_lt_zero j)
      phase := rfl }
    exact h'.decodeExt (Nat.zero_le _) hl
  · rw [decodeExtLen_of_gt (by omega)]
    exact decodeLeadsTo_raise .formatError nofun _

/-- R219: the payload length, if its bounds hold. -/
theorem decodePayloadLen (h : AtField s .payloadLen)
    (hl : s.cin.length = fieldStart s.params s.session.el.toNat (.payload 0))
    (hv : decodeInt32 s.session.group = wordAt s.cin (fieldStart s.params s.session.el.toNat .payloadLen)) :
    DecodeLeadsTo s.session.mchkL (decodePayloadLen s) := by
  obtain hle | hgt := em ((decodeInt32 s.session.group).toNat ≤ s.params.payloadMax.toNat ∧
    8 * ((decodeInt32 s.session.group).toNat : Int) ≤ remaining s.cap.toNat s.cinPos.toNat)
  · rw [decodePayloadLen_of_le hle]
    rw [h.el_eq] at hv
    have h' : AtField (setPhase .payloadLenDone (takePayloadLen s)) (.payload 0) := { h with
      pl_eq := rfl
      pl_le := hle.1
      payloadLen := fun _ => hv
      payloadLen_rest := nofun
      phase := rfl }
    exact h'.decodePayload (Nat.zero_le _) hl
  · rw [decodePayloadLen_of_gt (by omega)]
    exact decodeLeadsTo_raise .formatError nofun _

/-- What a full group leads to (R213 to R220). -/
theorem decodeGroup (h : AtField s f) (hf : fieldInFrame s.params s.session.el.toNat s.session.pl.toNat f)
    (hl : s.cin.length = fieldStart s.params s.session.el.toNat f + groupSize f)
    (hg : ∀ j, j < groupSize f →
      s.cin[fieldStart s.params s.session.el.toNat f + j]? = some (groupByte s.session.group j)) :
    DecodeLeadsTo s.session.mchkL (decodeGroup f s) := by
  rw [fieldStart_nextField] at hl
  cases f with
  | marker k =>
    have hk : k < 4 := Nat.lt_of_lt_of_le hf (Nat.le_of_lt_succ s.params.markerLen.isLt)
    have h' : AtField (takeMarker k s) (.marker (k + 1)) := { h with
      dmarker := byteOf_setByte_lt hk h.dmarker (decodeByte_group _ _ _ hg)
      dmarker_rest := byteOf_setByte_ge h.dmarker_rest
      mchk := nofun }
    exact h'.decodeMarker hf hl
  | extLen => exact h.decodeExtLen hl (decodeInt32_group _ _ _ hg)
  | ext k =>
    have hk : k < 4 := Nat.lt_of_lt_of_le hf (h.el_le.trans (Nat.le_of_lt_succ s.params.extMax.isLt))
    have h' : AtField { s with ext := setByte s.ext k (decodeByte (first8 s.session.group)) } (.ext (k + 1)) := { h with
      ext := byteOf_setByte_lt hk h.ext (decodeByte_group _ _ _ hg)
      ext_rest := byteOf_setByte_ge h.ext_rest }
    exact h'.decodeExt hf hl
  | payloadLen => exact h.decodePayloadLen hl (decodeInt32_group _ _ _ hg)
  | payload k =>
    exact .goesOn (DecodeActive.trace { h with } ⟨hf, hl, h.header, h.cap_eq, h.width_eq, h.height_eq,
      decodeByte_group _ _ _ hg, { h with }, h.phase, h.mmatch, h.mchk rfl⟩) h.busy

end AtField

/-! ### The answers -/

variable {s t : State}

/-- R212, R214: the header has been read, and the frame begins. -/
theorem decodeHeaderDone_leadsTo (ha : DecodeActive s) (hh : HeaderRead s 54) (hw : s.width = headerWidth s.session.hdr)
    (hv : s.height = headerHeight s.session.hdr) (hd : DecodedUpTo s (.marker 0)) (hl : s.cin.length = 54)
    (hmm : s.status.mmatch = false) : DecodeLeadsTo s.session.mchkL (decodeHeaderDone s) := by
  have h : AtField (setPhase .headerDone (loadCapacity s)) (.marker 0) := { ha, hd with
    header := hh
    cap_eq := toNat_capacity s.width s.height
    width_eq := hw
    height_eq := hv
    phase := rfl
    mmatch := hmm
    mchk := nofun }
  exact h.decodeMarker (Nat.zero_le _) hl

/-- R182, R183, R211: a header byte. -/
theorem readHeader_leadsTo {k : Fin 54} (h : DecodeTrace s) (hk : s.session.kind = .decode)
    (hc : s.session.cont = .header k) (r : ReadResult) :
    DecodeLeadsTo s.session.mchkL (readHeader decodeHeaderDone k r s) := by
  have ha := h.active hk
  have hp := h.point hk
  simp only [DecodePoint, hc] at hp
  obtain ⟨hi, hh, hd, hph, hmm⟩ := hp
  have hl : ∀ b : Byte, (s.cin ++ [b]).length = k.val + 1 := fun b => by simp [hi]
  obtain ⟨e, he, hne, -⟩ | ⟨b, -, ⟨-, -, he⟩ | ⟨h1, hn, he⟩ | ⟨hk53, he⟩⟩ :=
    readHeader_cases decodeHeaderDone k r s <;> rw [he]
  · exact decodeLeadsTo_raise e hne _
  · exact decodeLeadsTo_raise .formatError nofun _
  · exact .goesOn (DecodeActive.trace { ha with } ⟨hl b, hh.storeHeader b hi h1, { hd.cinReceived_header b with }, hph,
      hmm⟩) ha.busy
  · have hh' := hh.storeHeader b hi (by omega)
    have hl' := hl b
    rw [hk53] at hh' hl'
    exact decodeHeaderDone_leadsTo (s := loadDimensions (storeHeader k b (cinReceived b s))) { ha with }
      ⟨hh'.1, hh'.2⟩ rfl rfl { hd.cinReceived_header b with } hl' hmm

/-- R186: a byte of a carrier group. -/
theorem readGroup_leadsTo {f : Field} {k : Fin 32} (h : DecodeTrace s) (hk : s.session.kind = .decode)
    (hc : s.session.cont = .fill f k) (r : ReadResult) :
    DecodeLeadsTo s.session.mchkL (readGroup decodeGroup f k r s) := by
  have ha := h.active hk
  have hp := h.point hk
  simp only [DecodePoint, hc] at hp
  obtain ⟨hf, hkg, hl, hh, hcap, hw, hv, hg, hd, hph, hmm, hmc⟩ := hp
  have hle : fieldStart s.params s.extLen.toNat f ≤ s.cin.length := by
    rw [← ha.el_eq]
    omega
  obtain ⟨he, -⟩ | ⟨b, -, hb⟩ := readGroup_cases decodeGroup f k r s
  · rw [he]
    exact decodeLeadsTo_raise .ioError nofun _
  · have hl' : (s.cin ++ [b]).length = fieldStart s.params s.session.el.toNat f + (k.val + 1) := by
      simp [hl, Nat.add_assoc]
    have hg' := groupBytes_concat hl hg b
    have hat : AtField (storeGroup k b (cinReceived b s)) f := { ha, hd.cinReceived b hle with
      header := hh.cinReceived b
      cap_eq := hcap
      width_eq := hw
      height_eq := hv
      phase := hph
      mmatch := hmm
      mchk := hmc }
    obtain ⟨hlt, _, he⟩ | ⟨hge, he⟩ := hb <;> rw [he]
    · exact hat.awaitFill hf hlt hl' hg'
    · have hsz : k.val + 1 = groupSize f := by omega
      exact hat.decodeGroup hf (hsz ▸ hl') (hsz ▸ hg')

/-- R220: a payload byte delivered. -/
theorem decodeDeliver_leadsTo {k : Nat} {b : Byte} (h : DecodeTrace s) (hk : s.session.kind = .decode)
    (hc : s.session.cont = .deliver k b) (w : WriteResult) :
    DecodeLeadsTo s.session.mchkL (decodeDeliver k b w s) := by
  cases w with
  | err => exact decodeLeadsTo_raise .ioError nofun _
  | ok =>
    have ha := h.active hk
    have hp := h.point hk
    simp only [DecodePoint, hc] at hp
    obtain ⟨hlt, hl, hh, hcap, hw, hv, hb, hd, hph, hmm, hmc⟩ := hp
    have hn : s.pout.length = k := hd.pout_length
    rw [ha.el_eq] at hb
    have hat : AtField (poutDelivered b s) (.payload (k + 1)) := { ha, hd with
      header := hh
      cap_eq := hcap
      width_eq := hw
      height_eq := hv
      pout_length := by simp [hn, deliveredBefore]
      pout := fun j hj => by
        rw [poutDelivered_pout, List.length_append, List.length_singleton] at hj
        obtain hlt | rfl := Nat.lt_succ_iff_lt_or_eq.mp hj
        · exact getElem?_append_of_eq_some b (hd.pout j hlt)
        · rw [poutDelivered_pout, List.getElem?_concat_length, hb, hn]
          rfl
      phase := hph
      mmatch := hmm
      mchk := fun _ => hmc }
    exact hat.decodePayload hlt hl

theorem answerRead_leadsTo {r : ReadResult} (h : DecodeTrace s) (hk : s.session.kind = .decode)
    (ha : answerRead r s = .next t) : DecodeLeadsTo s.session.mchkL t := by
  unfold answerRead at ha
  rw [hk] at ha
  dsimp only at ha
  split at ha <;> cases ha
  next hc => exact readHeader_leadsTo h hk hc r
  next hc => exact readGroup_leadsTo h hk hc r

theorem answerWrite_leadsTo {w : WriteResult} (h : DecodeTrace s) (hk : s.session.kind = .decode)
    (ha : answerWrite w s = .next t) : DecodeLeadsTo s.session.mchkL t := by
  unfold answerWrite at ha
  rw [hk] at ha
  dsimp only at ha
  split at ha <;> cases ha
  next hc => exact decodeDeliver_leadsTo h hk hc w

/-! ### Any step -/

/-- No operation of a session makes a DECODE of another session. -/
theorem notDecode_sessionOps (k : Kind) : SessionOpsKeep k (fun s => s.session.kind ≠ .decode) where
  data h hc := by
    simp only [State.control, Prod.mk.injEq] at hc
    obtain ⟨-, hk, -⟩ := hc
    rwa [hk]
  await _ _ h _ := h
  complete _ _ _ := nofun
  setPhase _ _ h := h
  cinReceived _ h := h
  setCapOk _ h _ := h
  sinReceived _ _ h _ := h
  coutDelivered _ _ h _ := h
  setMmatch _ _ h _ := h
  poutDelivered _ _ h _ := h

theorem answerRead_decodeTrace {r : ReadResult} (h : DecodeTrace s) (ha : answerRead r s = .next t) :
    DecodeTrace t := by
  by_cases hk : s.session.kind = .decode
  · exact (answerRead_leadsTo h hk ha).trace
  · exact decodeTrace_of_kind ((notDecode_sessionOps _).answerRead (notDecode_sessionOps _) hk ha)

theorem answerWrite_decodeTrace {w : WriteResult} (h : DecodeTrace s) (ha : answerWrite w s = .next t) :
    DecodeTrace t := by
  by_cases hk : s.session.kind = .decode
  · exact (answerWrite_leadsTo h hk ha).trace
  · exact decodeTrace_of_kind ((notDecode_sessionOps _).answerWrite (notDecode_sessionOps _) hk ha)

/-- R210: the acceptance of any command, that of DECODE included, starts a trace or leaves none. -/
theorem exec_decodeTrace {i : Instr} (h : exec i s = .next t) : DecodeTrace t := by
  obtain ⟨e, ok, a, b, c, d, rfl⟩ | rfl | ⟨-, -, rfl⟩ | rfl := exec_cases h
  · exact decodeTrace_of_kind nofun
  · exact decodeTrace_of_kind nofun
  · exact decodeTrace_of_kind nofun
  · have hh : ∀ u, HeaderRead u 0 := fun u =>
      ⟨fun j hj => absurd hj (Nat.not_lt_zero j), fun h2 => absurd h2 (by decide)⟩
    exact DecodeActive.trace ⟨rfl, rfl, rfl, Nat.zero_le _, Nat.zero_le _, rfl⟩
      ⟨rfl, hh _, decodedUpTo_marker_zero_iff.mpr ⟨rfl, rfl, rfl, rfl, rfl⟩, rfl, rfl⟩

theorem acceptCmd_decodeTrace {w : Word} (h : acceptCmd w s = .next t) : DecodeTrace t := by
  obtain ⟨-, rfl⟩ | ⟨i, -, hx⟩ := acceptCmd_cases h
  · exact decodeTrace_of_kind nofun
  · exact exec_decodeTrace hx

theorem decodedUpTo_put (x : HostSide) (f : Field) : DecodedUpTo (x.put s) f ↔ DecodedUpTo s f :=
  ⟨fun h => { h with }, fun h => { h with }⟩

theorem decodePoint_put (x : HostSide) : DecodePoint (x.put s) ↔ DecodePoint s := by
  unfold DecodePoint
  simp only [decodedUpTo_put]
  exact Iff.rfl

theorem decodeTrace_put (h : DecodeTrace s) (x : HostSide) : DecodeTrace (x.put s) :=
  { h with point := fun hk => (decodePoint_put x).mpr (h.point hk) }

/-- Settles O51: an answer leads from field to field, a command starts anew, and no other move touches the trace. -/
theorem decodeTraceKept : Obligations.DecodeTraceKept := by
  intro s t h hst
  obtain ⟨rest, ⟨r, -, ha⟩ | ⟨w, -, ha⟩⟩ | ⟨u, rfl⟩ | ⟨x, rfl⟩ | ⟨hb, off, v, x, rfl | ha⟩ := step_inversion hst
  · exact answerRead_decodeTrace (decodeTrace_put h { HostSide.of s with host := rest }) ha
  · exact answerWrite_decodeTrace (decodeTrace_put h { HostSide.of s with host := rest }) ha
  · exact decodeTrace_of_kind nofun
  · exact decodeTrace_put h x
  · refine decodeTrace_of_kind fun hk => ?_
    exact absurd (hb.symm.trans (h.busy hk)) Bool.false_ne_true
  · exact acceptCmd_decodeTrace ha

end Sys2Proof.Machine
end

section
/-! PROOF. The results of a successful DECODE (44_frame_decode.md rule R222): it ends without an error only past the
last payload byte of the frame (R221), and there its registers and POUT are what the carrier carries. -/

namespace Sys2Proof.Machine

variable {s t : State}

theorem HeaderRead.headerOf_eq (h : HeaderRead s 54) : headerOf s.cin = s.session.hdr := Machine.headerOf_eq h.1

/-- R221: only the end of the frame ends an answered DECODE without an error. -/
theorem DecodeLeadsTo.completed_of_done {m : Bool} (h : DecodeLeadsTo m t) (htb : t.status.busy = false)
    (hte : t.status.err = .none) :
    ∃ u : State, AtField u (.payload u.session.pl.toNat) ∧ u.session.mchkL = m ∧
      u.cin.length = frameEnd u.params u.session.el.toNat u.session.pl.toNat ∧
      t = decodeFinish (setPhase .payloadDone u) := by
  cases h with
  | goesOn _ hb => cases htb.symm.trans hb
  | failed _ he => exact absurd hte he
  | completed u hu hm hl ht => exact ⟨u, hu, hm, hl, ht⟩

/-- R221, R222: the step that completes DECODE without an error is the one that meets the end of the frame. -/
theorem decode_completes_at_frameEnd (h : DecodeTrace s) (hk : s.session.kind = .decode) (hst : step s = .next t)
    (htb : t.status.busy = false) (htd : t.status.done = true) (hte : t.status.err = .none) :
    ∃ u : State, AtField u (.payload u.session.pl.toNat) ∧ u.session.mchkL = s.session.mchkL ∧
      u.cin.length = frameEnd u.params u.session.el.toNat u.session.pl.toNat ∧
      t = decodeFinish (setPhase .payloadDone u) := by
  have hb := h.busy hk
  obtain ⟨rest, hrw⟩ | ⟨u, rfl⟩ | ⟨x, rfl⟩ | ⟨hi, -⟩ := step_inversion hst
  · have h' : DecodeTrace { s with host := rest } := decodeTrace_put h { HostSide.of s with host := rest }
    obtain ⟨r, -, ha⟩ | ⟨w, -, ha⟩ := hrw
    · exact (answerRead_leadsTo h' hk ha).completed_of_done htb hte
    · exact (answerWrite_leadsTo h' hk ha).completed_of_done htb hte
  · exact absurd htd Bool.false_ne_true
  · cases hb.symm.trans htb
  · cases hb.symm.trans hi

/-- Settles O43: the completing step leaves what was decoded up to the last payload byte. -/
theorem decodeResultLaws : Obligations.DecodeResultLaws := by
  intro s t htr hci hk hst htb htd hte
  obtain ⟨u, hu, hm, hl, rfl⟩ := decode_completes_at_frameEnd htr hk hst htb htd hte
  have hcin := (counterInvKept s _ hci hst).cin_eq
  have hhdr : headerOf u.cin = u.session.hdr := hu.header.headerOf_eq
  have hel : u.session.el = u.extLen := hu.el_eq
  have hpl : u.session.pl = u.payloadLen := hu.pl_eq
  have hmm : u.status.mmatch = markerMatches u.params u.dmarker := hu.mmatch
  have hlen : u.pout.length = u.session.pl.toNat := hu.pout_length
  rw [hel, hpl] at hl
  refine ⟨hl, hcin, ?_, ?_, ?_, hu.cap_eq, hu.dmarker, hu.extLen rfl, hel ▸ hu.el_le, fun k hk4 => ?_,
    hu.payloadLen rfl, hpl ▸ hu.pl_le, hpl ▸ hlen, hu.pout, ?_, fun hs => hu.mchk rfl (hm.trans hs), rfl⟩
  · exact (congrArg signatureOk hhdr).trans (hu.header.2 (by decide))
  · exact hu.width_eq.trans (congrArg headerWidth hhdr.symm)
  · exact hu.height_eq.trans (congrArg headerHeight hhdr.symm)
  · split_ifs with hke
    · exact hu.ext k hke
    · exact hu.ext_rest k (Nat.not_lt.mp hke) hk4
  · exact (Bool.eq_iff_iff.mp hmm).trans (markerMatches_iff _ _)

end Sys2Proof.Machine
end

section
/-! PROOF. A DECODE served from any carrier whose hidden bits are those of a frame completes after exactly `F_END + PL`
transactions (44_frame_decode.md rules R210 to R222, 70_reset_and_hazards.md rule R277). Such a carrier is its own stego
image, so that its fields read back as those of an output of ENCODE do. -/

namespace Sys2Proof.Machine

/-- R140: a byte whose hidden bit is the frame bit of its offset is its own stego byte. -/
theorem stegoByte_of_lsb {p : Params} {el ext pl : Word} {payload : List Byte} {k : Nat} {b : Byte}
    (h : ∀ v, frameBit p el ext pl payload k = some v → lsb b = v) : stegoByte p el ext pl payload k b = b := by
  cases hv : frameBit p el ext pl payload k with
  | none => exact stegoByte_of_none b hv
  | some v => rw [stegoByte_of_some b hv, ← h v hv, setLsb_self]

/-- R194: a carrier whose hidden bits are the frame's is its own stego image. -/
theorem isStego_self {p : Params} {el ext pl : Word} {payload carrier : List Byte}
    (h : ∀ k v, frameBit p el ext pl payload k = some v → (carrier[k]?).map lsb = some v) :
    IsStego p el ext pl payload carrier carrier := by
  refine ⟨Nat.le_refl _, fun k hk => ?_⟩
  have hb : ∀ v, frameBit p el ext pl payload k = some v → lsb carrier[k] = v := fun v hv => by
    simpa [hk] using h k v hv
  rw [List.getElem?_eq_getElem hk, Option.map_some, stegoByte_of_lsb hb]

variable {F : FramedCarrier} {s : State}

/-- A carrier with the hidden bits of a frame that fits passes the checks of DECODE, and its fields are the frame's. -/
theorem FramedCarrier.holds_of_bits (he : F.el.toNat ≤ F.params.extMax.val)
    (hp : F.pl.toNat ≤ F.params.payloadMax.toNat) (hl : F.payload.length = F.pl.toNat)
    (hsig : signatureOk (headerOf F.carrier) = true)
    (hreq : requiredBits F.params.markerLen.val F.el.toNat F.pl.toNat ≤ F.capacity)
    (hend : frameEnd F.params F.el.toNat F.pl.toNat ≤ F.carrier.length)
    (hbits : ∀ k v, frameBit F.params F.el F.ext F.pl F.payload k = some v → (F.carrier[k]?).map lsb = some v) :
    F.Holds := by
  obtain ⟨hm, hel, hext, hpl, hpay⟩ := frameReadsBack _ _ _ _ _ _ _ (isStego_self hbits) rfl hend hl
  exact ⟨he, hp, hl, hsig, hreq, hend, hm, hel, hext, hpl, hpay⟩

/-- A served DECODE is busy until its last transaction. -/
theorem Served.busy {n : Nat} (h : Served F s n) (hn : n < F.transactions) : s.status.busy = true := by
  cases h with
  | header _ _ h _ _ => exact congrArg Status.busy h.status
  | fill _ _ _ h _ _ _ _ _ => exact congrArg Status.busy h.status
  | deliver _ _ _ h _ _ _ _ => exact congrArg Status.busy h.status
  | done _ hn' => exact absurd hn' hn.ne

/-- Settles O46: each transaction leads the session one byte on, and the last one completes it. -/
theorem decodeRunCompletes : Obligations.DecodeRunCompletes := by
  intro s t0 el ext pl payload carrier hr hx he hp hl hsig hreq hend hbits
  let F : FramedCarrier := ⟨s.params, el, ext, pl, payload, carrier⟩
  have hF : F.Holds := FramedCarrier.holds_of_bits he hp hl hsig hreq hend hbits
  rw [hl]
  refine ⟨fun m hm => ?_, ?_⟩
  · obtain ⟨u, hu, h⟩ := (served_exec_decode (F := F) rfl hr hx).serve hF m ((Nat.zero_add m).trans_le hm.le)
    rw [Nat.zero_add] at h
    exact ⟨u, hu, h.busy hm⟩
  · obtain ⟨t, ht, h⟩ := serve_decode hF rfl hr hx
    have hcap : t.cap.toNat = imageCapacityBytes t.width t.height := by
      rw [h.cap, toNat_capacity, h.width, h.height]
    exact ⟨t, ht, h.status, h.extLen rfl, h.ext, h.payloadLen rfl, h.pout.trans (List.take_of_length_le hl.le), h.width,
      h.height, hcap, h.cin⟩

end Sys2Proof.Machine
end

section
/-! PROOF. How `End` and `Err` of each stream port map to an error, by the point of the session (60_exceptions.md rule R244),
and the interrupt line (R250). -/

namespace Sys2Proof.Machine

variable {s t : State} {rest : List HostEvent}

/-! ### The errors of the stream answers -/

/-- R244: the error of a read answer that brings no byte, by the point of the session; ENCODE's tail, where `End` is the
normal end, is left to `encodeTail`. -/
def noByteError : ReadResult → Cont → ErrKind
  | .endOfStream, .header k => if k.val < 2 then .formatError else .ioError
  | _, _ => .ioError

/-- R244: `End` and `Err` of a read end the session with the error of its point, but for `End` in the tail. -/
theorem eq_raise_of_answerRead {r : ReadResult} (hb : ∀ b, r ≠ .byte b)
    (hn : r = .endOfStream → s.session.cont ≠ .tail) (h : answerRead r s = .next t) :
    t = raise (noByteError r s.session.cont) s := by
  unfold answerRead at h
  cases r with
  | byte b => exact absurd rfl (hb b)
  | endOfStream =>
    split at h
    · cases h
    · split at h <;> cases h
      next hc => rw [hc]; rfl
      next hc => rw [hc]; rfl
      next hc => rw [hc]; rfl
      next hc => exact absurd hc (hn rfl)
    · split at h <;> cases h
      next hc => rw [hc]; rfl
      next hc => rw [hc]; rfl
  | err =>
    split at h
    · cases h
    · split at h <;> cases h <;> rfl
    · split at h <;> cases h <;> rfl

/-- R244: `Err` of a write ends the session with IOError, whatever is written. -/
theorem eq_raise_of_answerWrite_err (h : answerWrite .err s = .next t) : t = raise .ioError s := by
  unfold answerWrite at h
  split at h
  · cases h
  · split at h <;> cases h <;> rfl
  · split at h <;> cases h; rfl

/-- R53: both sessions wait for CIN in the header. -/
theorem pending_header {k : Fin 54} (hk : s.session.kind ≠ .none) (hc : s.session.cont = .header k) :
    s.pending = some .cinRead := by
  cases hs : s.session.kind with
  | none => exact absurd hs hk
  | encode | decode => exact pending_at hs hc

/-- R53: both sessions wait for CIN in a group. -/
theorem pending_fill {f : Field} {k : Fin 32} (hk : s.session.kind ≠ .none) (hc : s.session.cont = .fill f k) :
    s.pending = some .cinRead := by
  cases hs : s.session.kind with
  | none => exact absurd hs hk
  | encode | decode => exact pending_at hs hc

/-- R53, R191: only the payload phase of ENCODE reads SIN. -/
theorem payloadIn_of_sinRead (h : s.pending = some .sinRead) : ∃ k, s.session.cont = .payloadIn k := by
  unfold State.pending Session.pending at h
  split at h
  · cases h
  · split at h <;> cases h
    exact ⟨_, ‹_›⟩
  · split at h <;> cases h

/-- R78, R243: a move that fits the pending transaction, and that can only raise an error, raises it. -/
theorem raises_of_fits {m : HostEvent} {e : ErrKind} (hr : s.rst = false) (hh : s.host = m :: rest)
    (hf : answerFits m s.pending = true)
    (ha : ∀ t, moveRunning m { s with host := rest } = .next t → t = raise e { s with host := rest }) :
    Raises e { s with host := rest } (step s) := by
  rw [step_running hr hh]
  obtain ⟨-, t, ht⟩ | ⟨hf', -⟩ := moveRunning_outcome m { s with host := rest }
  · rw [ht, ha t ht]
    exact raises_raise e _
  · cases hf.symm.trans hf'

/-- R244: a read answer without a byte at a point of a session, but for `End` in the tail. -/
theorem raises_noByteError {r : ReadResult} {c : Cont} (hr : s.rst = false) (hh : s.host = .readAnswer r :: rest)
    (hf : s.pending = some .cinRead ∨ s.pending = some .sinRead) (hc : s.session.cont = c)
    (hb : ∀ b, r ≠ .byte b) (hn : r = .endOfStream → c ≠ .tail) :
    Raises (noByteError r c) { s with host := rest } (step s) := by
  subst hc
  refine raises_of_fits hr hh ?_ fun t => eq_raise_of_answerRead (s := { s with host := rest }) hb hn
  simpa [answerFits] using hf

/-- R244: `Err` of a write. -/
theorem raises_of_writeErr {b : Byte} (hr : s.rst = false) (hh : s.host = .writeAnswer .err :: rest)
    (hf : s.pending = some (.coutWrite b) ∨ s.pending = some (.poutWrite b)) :
    Raises .ioError { s with host := rest } (step s) := by
  refine raises_of_fits hr hh ?_ fun t => eq_raise_of_answerWrite_err
  obtain hp | hp := hf <;> rw [hp] <;> rfl

/-- Settles O39: each row is the error of its point of the session, but for the two rows of the tail, which are R192. -/
theorem streamErrorTable : Obligations.StreamErrorTable := by
  intro s rest hr hk
  obtain ⟨htail, -⟩ := tailPassthrough
  refine ⟨fun k hc hh => ?_, fun k hc hh => ?_, fun f k r hc hx hh => ?_, fun he hc hh => ?_, fun he hc hh => ?_,
    fun r hp hx hh => ?_, fun b hp hh => ?_⟩
  · exact raises_noByteError hr hh (.inl (pending_header hk hc)) hc nofun nofun
  · exact raises_noByteError hr hh (.inl (pending_header hk hc)) hc nofun nofun
  · obtain rfl | rfl := hx <;> exact raises_noByteError hr hh (.inl (pending_fill hk hc)) hc nofun nofun
  · exact htail s rest .endOfStream hr he hc hh
  · exact htail s rest .err hr he hc hh
  · obtain ⟨k, hc⟩ := payloadIn_of_sinRead hp
    obtain rfl | rfl := hx <;> exact raises_noByteError hr hh (.inr hp) hc nofun nofun
  · exact raises_of_writeErr hr hh hp

/-! ### The interrupt line -/

theorem irq_eq_true_iff (s : State) : s.irq = true ↔ s.ie = true ∧ s.status.done = true := Bool.and_eq_true_iff

theorem irq_eq_false_iff (s : State) : s.irq = false ↔ s.ie = false ∨ s.status.done = false := Bool.and_eq_false_iff

/-- R121, R181, R210: the acceptance of a command that starts a session clears `DONE`. -/
theorem exec_done_of_busy {i : Instr} (h : exec i s = .next t) (hb : t.status.busy = true) : t.status.done = false := by
  obtain ⟨e, ok, a, b, c, d, rfl⟩ | rfl | ⟨-, -, rfl⟩ | rfl := exec_cases h
  · cases hb
  · cases hb
  · rfl
  · rfl

/-- Settles O18: the bits of `CTRL` and `STATUS`, then the ways the spec clears one of them. -/
theorem interruptLevel : Obligations.InterruptLevel := by
  refine ⟨fun s => ?_, fun s rest v hr hh hv => ?_, fun s t h hb => ?_, rfl⟩
  · rw [readRegister_ctrl, readRegister_status, getLsbD_ctrlWord, getLsbD_statusWord, irq_eq_true_iff]
    simp
  · obtain ⟨hstep, -⟩ := ctrlWrite s rest v hr hh
    refine ⟨_, hstep, ?_⟩
    rw [irq_eq_false_iff]
    obtain hd | he := hv
    · exact .inr (by simp [hd])
    · exact .inl he
  · rw [irq_eq_false_iff]
    exact .inr (h.elim (exec_done_of_busy · hb) (exec_done_of_busy · hb))

end Sys2Proof.Machine
end

section
/-! PROOF. The reset input (70_reset_and_hazards.md rule R270): what a move does while `rst` is asserted, and what the
registers read after its assertion and release. -/

namespace Sys2Proof.Machine

/-- R270: while `rst` is asserted no move but its release has an effect. -/
theorem moveInReset_of_ne_release {e : HostEvent} (s : State) (h : e ≠ .rstRelease) : moveInReset e s = s := by
  cases e with
  | rstRelease => exact absurd rfl h
  | regRead | regWrite | readAnswer | writeAnswer | rstAssert => rfl

/-- R44, R46, R47: only `MARKER`, `PARAM` and `PAYLOAD_MAX` show a parameter. -/
theorem readRegister_of_params {off : BitVec 8} (s : State) (p : Params) (l : List HostEvent)
    (h : off ∉ ([0x3C, 0x40, 0x44] : List (BitVec 8))) :
    readRegister off { s with params := p, host := l } = readRegister off s := by
  simp only [List.mem_cons, List.not_mem_nil, or_false, not_or] at h
  obtain ⟨hmarker, hparam, hmax⟩ := h
  simp only [readRegister, if_neg hmarker, if_neg hparam, if_neg hmax]

/-- R270: assertion and release leave the block of reset, with its own parameters and its host. -/
theorem releaseReset_assertReset (s : State) :
    releaseReset (assertReset s) = { State.reset with params := s.params, host := s.host } := rfl

theorem readRegister_releaseReset_assertReset {off : BitVec 8} (s : State)
    (h : off ∉ ([0x3C, 0x40, 0x44] : List (BitVec 8))) :
    readRegister off (releaseReset (assertReset s)) = readRegister off State.reset := by
  rw [releaseReset_assertReset, readRegister_of_params _ _ _ h]

/-- Settles O57: in reset only the release acts; the two steps of assertion and release give the state of reset with the
block's own parameters, whose registers are those of `State.reset` but for the ones that show a parameter. -/
theorem resetSequence : Obligations.ResetSequence := by
  constructor
  · intro s e rest hr hh he
    rw [step_cons hh, hostMove_of_rst (s := { s with host := rest }) hr, moveInReset_of_ne_release _ he]
  · intro s rest hr hh
    have hassert : step s = .next (assertReset { s with host := .rstRelease :: rest }) := step_running hr hh
    obtain ⟨-, hctrl, -, -, hzero, -⟩ := resetRegisters
    refine ⟨_, releaseReset (assertReset { s with host := rest }), hassert, rfl, rfl, rfl, rfl, rfl, rfl, rfl,
      (readRegister_releaseReset_assertReset _ (by decide)).trans hctrl, fun off hoff => ?_, fun off ha hoff => ?_⟩
    · simp only [List.mem_cons, List.not_mem_nil, or_false] at hoff
      obtain rfl | rfl | rfl | rfl := hoff <;> rfl
    · rw [readRegister_releaseReset_assertReset _ fun hp => hoff (.tail _ (.tail _ hp))]
      exact hzero off ha hoff

end Sys2Proof.Machine
end
